-- ==== Sys2Proof/Word.lean ====
section
/-! DEFINITION. The bit vectors of the engine (00_scope.md R1, R5 to R7): unsigned, of one stated width each. -/

namespace Sys2Proof

/-- One byte slot, one digest byte, one table entry. -/
abbrev Byte := BitVec 8

/-- One lane accumulator, one seed mask, the RESULT register: 64 bits, 8 byte slots (R1, R6). -/
abbrev Word := BitVec 64

/-- One word written to the command port (R39). -/
abbrev CmdWord := BitVec 16

/-- One byte address of the read space, 0x00 to 0x3F (R27). -/
abbrev ReadAddr := BitVec 6

end Sys2Proof
end

