-- ==== Sys2Proof/Syntax.lean ====
section
/-! DEFINITION. The commands of the engine, one constructor per row of spec/opcode_table.json, and the lines of its assembler. -/

namespace Sys2Proof

/-- The digest width: the value of MODE and of HSTART's width bit W (R15, R40). -/
inductive Mode where
  /-- 0: the 128-bit mode, 2 lanes. -/
  | w128
  /-- 1: the 256-bit mode, 4 lanes. -/
  | w256
  deriving DecidableEq, Repr

/-- The four lanes, 0 to 3 in this order, under the source's names (R10). -/
inductive Lane where
  | lowLane
  | highLane
  | lowLaneUpper
  | highLaneUpper
  deriving DecidableEq, Repr

/-- The commands (R41). Every value of every operand is legal (R40). -/
inductive Instr where
  /-- HSTART W: open an invocation (R62). -/
  | hstart (w : Mode)
  /-- HBYTE b: fold one input byte into every active lane (R60). -/
  | hbyte (b : Byte)
  /-- HFINAL: close the invocation and write the digest (R66). -/
  | hfinal
  /-- TLOOK i: read one table entry (R51). -/
  | tlook (i : Byte)
  /-- RDACC LANE: read one lane accumulator (R73). -/
  | rdacc (lane : Lane)
  deriving DecidableEq, Repr

/-- One line of the assembler: the five mnemonics (R46) and the two pseudo-instructions (R47). Operands are numbers
as written, so one out of range can be written here, and is refused (WellFormed.lean, Machine/Assembler.lean). -/
inductive AsmLine where
  | hstart (width : Nat)
  | hbyte (b : Nat)
  | hfinal
  | tlook (i : Nat)
  | rdacc (lane : Nat)
  | hash128 (x : List Nat)
  | hash256 (x : List Nat)
  deriving DecidableEq, Repr

end Sys2Proof
end

