-- ==== Sys2Proof/WellFormed.lean ====
section
/-! DEFINITION. Which instructions and which assembler lines are well formed. -/

namespace Sys2Proof

/-- Every command that can be written as an `Instr` is well formed: each operand's type holds exactly the values
R40 makes legal. One arm per constructor. -/
def Instr.wellFormed : Instr → Bool
  | .hstart _ => true
  | .hbyte _ => true
  | .hfinal => true
  | .tlook _ => true
  | .rdacc _ => true

/-- The operand ranges of R46 and R47: a width of 128 or 256, bytes and indices up to 0xFF, lanes 0 to 3. -/
def AsmLine.wellFormed : AsmLine → Bool
  | .hstart width => width == 128 || width == 256
  | .hbyte b => b < 256
  | .hfinal => true
  | .tlook i => i < 256
  | .rdacc lane => lane < 4
  | .hash128 x => x.all (· < 256)
  | .hash256 x => x.all (· < 256)

end Sys2Proof
end

