-- ==== Sys2Proof/Decode.lean ====
section
/-! DEFINITION. The command word CMD16, its decoder and its encoder (30_encoding.md R39 to R44, opcode_table.json). -/

namespace Sys2Proof

/-- The fields of the one format CMD16: OP = w[15:12], X = w[11:8], IMM8 = w[7:0] (R39). -/
@[ext]
structure Cmd16 where
  op : BitVec 4
  x : BitVec 4
  imm8 : Byte
  deriving DecidableEq, Repr

/-- The three fields of a command word (R39). -/
def Cmd16.ofWord (w : CmdWord) : Cmd16 :=
  { op := w.extractLsb' 12 4, x := w.extractLsb' 8 4, imm8 := w.extractLsb' 0 8 }

/-- The command word with these fields, bit 15 first (R39). -/
def Cmd16.toWord (f : Cmd16) : CmdWord := f.op ++ f.x ++ f.imm8

/-- The legal opcodes (R41). -/
inductive Opcode where
  | hstart
  | hbyte
  | hfinal
  | tlook
  | rdacc
  deriving DecidableEq, Repr

/-- The OP number of each opcode (R41). -/
def Opcode.code : Opcode → BitVec 4
  | .hstart => 0x1
  | .hbyte => 0x2
  | .hfinal => 0x3
  | .tlook => 0x4
  | .rdacc => 0x5

/-- The opcode an OP field selects; none for 0x0 and 0x6 to 0xF (R41, R43). -/
def Opcode.ofCode (op : BitVec 4) : Option Opcode :=
  if op = 0x1 then some .hstart
  else if op = 0x2 then some .hbyte
  else if op = 0x3 then some .hfinal
  else if op = 0x4 then some .tlook
  else if op = 0x5 then some .rdacc
  else none

/-- ReservedBits(op, x, imm): the OR of the bits that R41 lists as reserved-zero for the opcode (R42). -/
def Opcode.reservedBits (o : Opcode) (x : BitVec 4) (imm : Byte) : Byte :=
  match o with
  | .hstart => (x.extractLsb' 1 3).setWidth 8 ||| imm
  | .hbyte => x.setWidth 8
  | .hfinal => x.setWidth 8 ||| imm
  | .tlook => x.setWidth 8
  | .rdacc => (x.extractLsb' 2 2).setWidth 8 ||| imm

/-- HSTART's width bit W: 0 selects the 128-bit mode, 1 the 256-bit mode (R40). -/
def Mode.ofBit (w : BitVec 1) : Mode := if w = 0 then .w128 else .w256

/-- MODE as its one bit (R15). -/
def Mode.toBit : Mode → BitVec 1
  | .w128 => 0
  | .w256 => 1

/-- The lane a lane number names (R10, R40). -/
def Lane.ofBits (l : BitVec 2) : Lane :=
  if l = 0 then .lowLane
  else if l = 1 then .highLane
  else if l = 2 then .lowLaneUpper
  else .highLaneUpper

/-- The number of a lane, 0 to 3 (R10). -/
def Lane.toBits : Lane → BitVec 2
  | .lowLane => 0
  | .highLane => 1
  | .lowLaneUpper => 2
  | .highLaneUpper => 3

/-- Why a command word is no command. -/
inductive DecodeError where
  /-- OP is 0x0 or 0x6 to 0xF (R43). -/
  | illegalOpcode
  /-- OP is legal and a reserved-zero bit is 1 (R42). -/
  | reservedField
  deriving DecidableEq, Repr

/-- The operands of an opcode, taken from the fields (R40). -/
def Opcode.instr (o : Opcode) (f : Cmd16) : Instr :=
  match o with
  | .hstart => .hstart (Mode.ofBit (f.x.extractLsb' 0 1))
  | .hbyte => .hbyte f.imm8
  | .hfinal => .hfinal
  | .tlook => .tlook f.imm8
  | .rdacc => .rdacc (Lane.ofBits (f.x.extractLsb' 0 2))

/-- The decoder: total on all 65536 words, with the checks in the order of R44. -/
def decode (w : CmdWord) : Except DecodeError Instr :=
  let f := Cmd16.ofWord w
  match Opcode.ofCode f.op with
  | none => .error .illegalOpcode
  | some o => if o.reservedBits f.x f.imm8 = 0 then .ok (o.instr f) else .error .reservedField

/-- The fields of a command's word, by the encoding patterns of R41. -/
def Instr.fields : Instr → Cmd16
  | .hstart w => { op := 0x1, x := w.toBit.setWidth 4, imm8 := 0 }
  | .hbyte b => { op := 0x2, x := 0, imm8 := b }
  | .hfinal => { op := 0x3, x := 0, imm8 := 0 }
  | .tlook i => { op := 0x4, x := 0, imm8 := i }
  | .rdacc lane => { op := 0x5, x := lane.toBits.setWidth 4, imm8 := 0 }

/-- The encoder: the command word of a command (R41). -/
def encode (i : Instr) : CmdWord := i.fields.toWord

/-- The command word an instruction of `nbits` bits with value `w` is, as spec/opcode_table.json numbers bits: every
command is one 16-bit word (R39), the bits above `nbits` are 0, and a value that needs a 17th bit is no command
(DESIGN CHOICE, safe: log entry 10). -/
def tableWord (nbits w : Nat) : Option CmdWord :=
  if w % 2 ^ nbits < 2 ^ 16 then some (BitVec.ofNat 16 (w % 2 ^ nbits)) else none

/-- The instruction the decoder reads from a table row's bits. -/
def decodeTableWord (nbits w : Nat) : Option Instr :=
  match tableWord nbits w with
  | none => none
  | some c =>
    match decode c with
    | .ok i => some i
    | .error _ => none

end Sys2Proof
end

