-- ==== Sys2Proof/Config.lean ====
section
/-! DEFINITION. What is fixed when an engine is built (00_scope.md R2, R3 and section 4), as constants without a body. -/

namespace Sys2Proof

/-- The two values of the build-time parameter SBOX_VARIANT (R2). -/
inductive SboxVariant where
  | paper
  | rfc3074
  deriving DecidableEq, Repr, Inhabited

/-- The contents of a substitution table: 256 entries of 8 bits (R1, R14). -/
abbrev SubstTable := Vector Byte 256

/-- The table whose entry at index `x` is `f x`. -/
def SubstTable.ofFn (f : Byte → Byte) : SubstTable :=
  ⟨⟨(List.range 256).map fun n => f (BitVec.ofNat 8 n)⟩, by simp⟩

/-- TABLE_PAPER: an open parameter, of which a model may assume only that it is a permutation (R3). -/
opaque Config.tablePaper : Equiv.Perm Byte

/-- TABLE_RFC3074: an open parameter, of which a model may assume only that it is a permutation (R3). -/
opaque Config.tableRfc3074 : Equiv.Perm Byte

/-- SBOX_VARIANT: selected once, when the engine is built (R2). DESIGN CHOICE, safe: left open although the
spec names a default, so what is proved holds for either value (log entry 5). -/
opaque Config.sboxVariant : SboxVariant

/-- N_ENGINES: how many engine instances a system holds, at least 1 (00_scope.md section 4, R36). -/
opaque Config.nEngines : ℕ+

/-- The permutation a variant selects (R14). -/
def Config.permOf : SboxVariant → Equiv.Perm Byte
  | .paper => Config.tablePaper
  | .rfc3074 => Config.tableRfc3074

/-- The contents of SROM in an engine built with variant `v` (R14). -/
def Config.srom (v : SboxVariant) : SubstTable := SubstTable.ofFn (Config.permOf v)

end Sys2Proof
end

