-- ==== Sys2Proof/Machine/State.lean ====
section
/-! DEFINITION. The state of the engine and of its host, the ways a step can stop (none is ever taken), and the state after reset. -/

namespace Sys2Proof.Machine

/-- The four lane accumulators, under the source's names (R10). -/
@[ext]
structure LaneFile where
  /-- ACC[0] -/
  lowLane : Word
  /-- ACC[1] -/
  highLane : Word
  /-- ACC[2] -/
  lowLaneUpper : Word
  /-- ACC[3] -/
  highLaneUpper : Word
  deriving DecidableEq, Repr

/-- All four accumulators 0. -/
def LaneFile.zero : LaneFile :=
  { lowLane := 0, highLane := 0, lowLaneUpper := 0, highLaneUpper := 0 }

/-- The contents of the digest buffer, DIGEST[0] to DIGEST[31] (R21). -/
abbrev Digest := Vector Byte 32

/-- All 32 digest bytes 0x00. -/
def Digest.zero : Digest := Vector.replicate 32 0

/-- One thing the host, or the system around the engine, does to it (R29, R44, R89, D29). -/
inductive HostAction where
  /-- Write a 16-bit word to the command port (R44). -/
  | write (w : CmdWord)
  /-- Read a byte of the read space (R29). -/
  | read (a : ReadAddr)
  /-- Drive the reset input (R89). -/
  | reset
  deriving DecidableEq, Repr

/-- Why a step stops with a fault. No constructor: nothing raises one, and it is safe to have none, because the spec's
four fault causes are recorded in ERR, ERRCODE and ERRCMD and the engine goes on (R78, R79, R97): a next state. -/
inductive Fault where
  deriving DecidableEq, Repr

/-- Why a step is refused. -/
inductive Refusal where
  /-- An instruction without a meaning yet: only exec's arm for it may answer this, which is safe (nothing is claimed of
  it). Every instruction has its meaning, so nothing answers this. -/
  | notModelled (mnemonic : String)
  deriving DecidableEq, Repr

/-- The machine: every element of the summary table of 10_state.md section 1 that is stored, the build's constants,
and the host's side of the ports. MASK is hard-wired (`mask`) and STATUS is a view (`statusByte`). -/
@[ext]
structure State where
  /-- ACC[0..3] (R10). -/
  acc : LaneFile
  /-- SROM[0..255], the read-only table the engine was built with (R14). -/
  srom : SubstTable
  /-- SBOX_VARIANT, the variant the engine was built with (R2). -/
  variant : SboxVariant
  /-- MODE (R15). -/
  mode : Mode
  /-- ACTIVE (R16). -/
  active : Bool
  /-- DONE (R17). -/
  done : Bool
  /-- ERR (R18). -/
  err : Bool
  /-- ERRCODE (R19). -/
  errcode : Byte
  /-- ERRCMD (R20). -/
  errcmd : CmdWord
  /-- DIGEST[0..31] (R21). -/
  digest : Digest
  /-- RESULT (R22). -/
  result : Word
  /-- The model's own: what the host has still to do, oldest first (DESIGN CHOICE, log entry 1). -/
  host : List HostAction
  /-- The model's own: the bytes the host's reads returned, newest first (DESIGN CHOICE, log entry 2). -/
  reads : List Byte
  deriving DecidableEq, Repr

/-- Right after reset (R89), in an engine built as Config says (R90), with a host that has nothing to do and has read
nothing (log entries 1, 2). -/
def State.reset : State where
  acc := LaneFile.zero
  srom := Config.srom Config.sboxVariant
  variant := Config.sboxVariant
  mode := .w128
  active := false
  done := false
  err := false
  errcode := 0x00
  errcmd := 0x0000
  digest := Digest.zero
  result := 0
  host := []
  reads := []

end Sys2Proof.Machine
end

