-- ==== Sys2Proof/Machine/Ops.lean ====
section
/-! DEFINITION. The named reads and writes of the state, taking a fault (R78), ignoring commands under a fault (R79) and
reset, the only way out of a fault (R80, R89). Every meaning is written over these. -/

namespace Sys2Proof.Machine

/-- ACC[l], read (R10). -/
def LaneFile.get (f : LaneFile) : Lane → Word
  | .lowLane => f.lowLane
  | .highLane => f.highLane
  | .lowLaneUpper => f.lowLaneUpper
  | .highLaneUpper => f.highLaneUpper

/-- ACC[l] <- v (R10). -/
def LaneFile.set (f : LaneFile) (l : Lane) (v : Word) : LaneFile :=
  match l with
  | .lowLane => { f with lowLane := v }
  | .highLane => { f with highLane := v }
  | .lowLaneUpper => { f with lowLaneUpper := v }
  | .highLaneUpper => { f with highLaneUpper := v }

/-- ACC[l] <- v. -/
def State.setAcc (s : State) (l : Lane) (v : Word) : State := { s with acc := s.acc.set l v }

/-- ACC[l] <- 0 for all four lanes (R62). -/
def State.clearAcc (s : State) : State := { s with acc := LaneFile.zero }

/-- MODE <- m. -/
def State.setMode (s : State) (m : Mode) : State := { s with mode := m }

/-- ACTIVE <- b. -/
def State.setActive (s : State) (b : Bool) : State := { s with active := b }

/-- DONE <- b. -/
def State.setDone (s : State) (b : Bool) : State := { s with done := b }

/-- DIGEST[0..31] <- d. -/
def State.setDigest (s : State) (d : Digest) : State := { s with digest := d }

/-- RESULT <- v. -/
def State.setResult (s : State) (v : Word) : State := { s with result := v }

/-- What the host has still to do <- h (the model's own field, log entry 1). -/
def State.setHost (s : State) (h : List HostAction) : State := { s with host := h }

/-- The host receives a byte (the model's own field, log entry 2). -/
def State.pushRead (s : State) (b : Byte) : State := { s with reads := b :: s.reads }

/-- The four fault causes (R75). -/
inductive FaultCause where
  /-- OP is 0x0 or 0x6 to 0xF: any such word (R43). -/
  | illegalOpcode
  /-- OP is legal and a reserved-zero bit is 1 (R42). -/
  | reservedField
  /-- HBYTE while ACTIVE = 0 (R60, R76). -/
  | noInvocationByte
  /-- HFINAL while ACTIVE = 0 (R66, R76). -/
  | noInvocationFinal
  deriving DecidableEq, Repr

/-- The code ERRCODE records (R75). -/
def FaultCause.code : FaultCause → Byte
  | .illegalOpcode => 0x01
  | .reservedField => 0x02
  | .noInvocationByte => 0x03
  | .noInvocationFinal => 0x04

/-- The cause a word has that is no command (R42, R43). -/
def FaultCause.ofDecodeError : DecodeError → FaultCause
  | .illegalOpcode => .illegalOpcode
  | .reservedField => .reservedField

/-- raise Fault(code, w): the fault entry, which does exactly this (R78). There is no handler to go to. -/
def State.raiseFault (s : State) (c : FaultCause) (w : CmdWord) : State :=
  { s with err := true, errcode := c.code, errcmd := w }

/-- While ERR = 1 the engine ignores the command (R79); otherwise it does what `act` says. -/
def unlessErr (s : State) (act : State → State) : Host.Outcome State Fault Refusal :=
  if s.err then .next s else .next (act s)

/-- A command of an open invocation (R76): with ACTIVE = 0 it raises `c`, recording `w`, and has no other effect. -/
def whenActive (c : FaultCause) (w : CmdWord) (act : State → State) (s : State) : State :=
  if s.active then act s else s.raiseFault c w

/-- The reset input (R89): every element of state to its reset value. SROM and SBOX_VARIANT stay (R90), and so do the
host's own fields. It is the only way to leave a fault (R80). -/
def State.applyReset (s : State) : State :=
  { s with
    acc := LaneFile.zero
    mode := .w128
    active := false
    done := false
    err := false
    errcode := 0x00
    errcmd := 0x0000
    digest := Digest.zero
    result := 0 }

end Sys2Proof.Machine
end

