-- ==== Sys2Proof/Machine/Operands.lean ====
section
/-! DEFINITION. Byte slots and words of slots (R6), the seed masks (R11, R12), the active lanes (R15) and the active
substitution table (R48): what the commands take as operands. -/

namespace Sys2Proof.Machine

/-- slot(w, i) = w[8i+7:8i], slot 0 least significant (R6). -/
def slot (w : Word) (i : Fin 8) : Byte := w.extractLsb' (8 * i.val) 8

/-- word(s0, ..., s7), the word whose slot `i` is `f i` (R6). -/
def wordOfSlots (f : Fin 8 → Byte) : Word := f 7 ++ f 6 ++ f 5 ++ f 4 ++ f 3 ++ f 2 ++ f 1 ++ f 0

/-- zext_64(x) (R7). -/
def zext64 (x : Byte) : Word := x.setWidth 64

/-- Slot `i` of MASK[l]: `i` in lowMask, `8+i` in highMask (R11), and 0x10 more in every slot of the upper masks, with
no carry between slots (R12). -/
def maskSlot : Lane → Fin 8 → Byte
  | .lowLane, i => BitVec.ofNat 8 i.val
  | .highLane, i => 8 + BitVec.ofNat 8 i.val
  | .lowLaneUpper, i => BitVec.ofNat 8 i.val + 0x10
  | .highLaneUpper, i => 8 + BitVec.ofNat 8 i.val + 0x10

/-- MASK[l], a hard-wired constant (R11 to R13). -/
def mask (l : Lane) : Word := wordOfSlots (maskSlot l)

/-- ActiveLanes(MODE), in ascending order (R8, R15). -/
def activeLanes : Mode → List Lane
  | .w128 => [.lowLane, .highLane]
  | .w256 => [.lowLane, .highLane, .lowLaneUpper, .highLaneUpper]

/-- The entry of a table at index `x` (R14): every index is legal. -/
def lookup (t : SubstTable) (x : Byte) : Byte := t[x.toNat]'x.isLt

/-- S(x) = SROM[x], the active substitution table of this engine applied to `x` (R48). -/
def State.subst (s : State) (x : Byte) : Byte := lookup s.srom x

end Sys2Proof.Machine
end

