-- ==== Sys2Proof/Machine/EntryPoints.lean ====
section
/-! DEFINITION. HSTART (42_entry_points.md R62), the serializer and the finalizers (R63 to R65) and HFINAL (R66). -/

namespace Sys2Proof.Machine

/-- HSTART(W): a new invocation with clean accumulators and digest (R62). It abandons an open one. -/
def execHstart (w : Mode) (s : State) : Host.Outcome State Fault Refusal :=
  unlessErr s fun s =>
    ((((s.clearAcc).setMode w).setActive true).setDone false).setDigest Digest.zero

/-- Ser(w): the 8 slots of a lane word, slot 0 first (R63). -/
def ser (w : Word) : Vector Byte 8 :=
  #v[slot w 0, slot w 1, slot w 2, slot w 3, slot w 4, slot w 5, slot w 6, slot w 7]

/-- Final128 = Ser(ACC[0]) ‖ Ser(ACC[1]) (R64). -/
def final128 (f : LaneFile) : Vector Byte 16 := ser f.lowLane ++ ser f.highLane

/-- Final256 = Ser(ACC[3]) ‖ Ser(ACC[2]) ‖ Ser(ACC[0]) ‖ Ser(ACC[1]) (R65, 90_conflicts.md C1). -/
def final256 (f : LaneFile) : Vector Byte 32 :=
  ser f.highLaneUpper ++ ser f.lowLaneUpper ++ ser f.lowLane ++ ser f.highLane

/-- What HFINAL writes to DIGEST[0..31]: in the 128-bit mode Final128 and then 16 bytes 0x00, in the 256-bit mode
Final256 (R66). -/
def finalDigest (m : Mode) (f : LaneFile) : Digest :=
  match m with
  | .w128 => final128 f ++ Vector.replicate 16 (0 : Byte)
  | .w256 => final256 f

/-- DIGEST <- the digest; ACTIVE <- 0; DONE <- 1 (R66). The accumulators and MODE stay. -/
def closeInvocation (s : State) : State :=
  ((s.setDigest (finalDigest s.mode s.acc)).setActive false).setDone true

/-- HFINAL(w) (R66). -/
def execHfinal (s : State) : Host.Outcome State Fault Refusal :=
  unlessErr s (whenActive .noInvocationFinal (encode .hfinal) closeInvocation)

end Sys2Proof.Machine
end

