-- ==== Sys2Proof/Machine/LaneRecurrence.lean ====
section
/-! DEFINITION. The lane recurrence as pure functions (41_lane_recurrence.md R52 to R57) and HBYTE (R60). -/

namespace Sys2Proof.Machine

/-- Bcast(b): `b` in every slot (R52). -/
def bcast (b : Byte) : Word := wordOfSlots fun _ => b

/-- Mix(acc, b, m) = acc XOR Bcast(b) XOR m (R53). -/
def mix (acc : Word) (b : Byte) (m : Word) : Word := acc ^^^ bcast b ^^^ m

/-- Micro(a, h): one micro-round (R54). The substituted byte enters `h` only (90_conflicts.md C6). -/
def micro (S : Byte → Byte) (p : Word × Word) : Word × Word :=
  (p.1 >>> 8, (p.2 >>> 8) ||| (zext64 (S (p.1.extractLsb' 0 8)) <<< 56))

/-- `n` micro-rounds (R55). -/
def microRounds (S : Byte → Byte) : Nat → Word × Word → Word × Word
  | 0, p => p
  | n + 1, p => microRounds S n (micro S p)

/-- How many micro-rounds one lane step runs: one per slot (R55). -/
def microRoundCount : Nat := 8

/-- The 8 micro-rounds on `a` from a scratch word `h` (R55). -/
def subRotFrom (S : Byte → Byte) (h a : Word) : Word := (microRounds S microRoundCount (a, h)).2

/-- SubRot(a): the 8 micro-rounds from h = 0 (R55; log entry 8). -/
def subRot (S : Byte → Byte) (a : Word) : Word := subRotFrom S 0 a

/-- LaneStep(acc, b, m) = SubRot(Mix(acc, b, m)) (R57). -/
def laneStep (S : Byte → Byte) (acc : Word) (b : Byte) (m : Word) : Word := subRot S (mix acc b m)

/-- ACC[l] <- LaneStep(ACC[l], b, MASK[l]) (R60). -/
def stepLane (b : Byte) (s : State) (l : Lane) : State :=
  s.setAcc l (laneStep s.subst (s.acc.get l) b (mask l))

/-- The lane step of every active lane, in ascending order (R8, R60). -/
def foldByte (b : Byte) (s : State) : State := (activeLanes s.mode).foldl (stepLane b) s

/-- HBYTE(b, w) (R60). Its word `w`, which a fault records, is the only word that decodes to it (log entry 7). -/
def execHbyte (b : Byte) (s : State) : Host.Outcome State Fault Refusal :=
  unlessErr s (whenActive .noInvocationByte (encode (.hbyte b)) (foldByte b))

/-- How many table lookups one HBYTE performs in a mode (R96). -/
def hbyteLookups (m : Mode) : Nat := microRoundCount * (activeLanes m).length

end Sys2Proof.Machine
end

