-- ==== Sys2Proof/Machine/Flags.lean ====
section
/-! DEFINITION. STATUS, the read-only view of the control and status bits (R23). No command computes condition codes (R25). -/

namespace Sys2Proof.Machine

/-- STATUS bit 4, hard-wired: 0 for paper, 1 for rfc3074 (R23). -/
def variantBit : SboxVariant → BitVec 1
  | .paper => 0
  | .rfc3074 => 1

/-- STATUS, bit 7 first: bits 7:5 reserved and 0, then VARIANT, ERR, MODE, DONE, ACTIVE (R23). -/
def statusByte (s : State) : Byte :=
  (0 : BitVec 3) ++ variantBit s.variant ++ BitVec.ofBool s.err ++ s.mode.toBit ++ BitVec.ofBool s.done ++
    BitVec.ofBool s.active

end Sys2Proof.Machine
end

