-- ==== Sys2Proof/Machine/Observation.lean ====
section
/-! DEFINITION. RDACC (43_observation.md R73) and the host's read of the read space (20_memory.md R28, R29). -/

namespace Sys2Proof.Machine

/-- RDACC(LANE): RESULT <- ACC[LANE] (R73). Legal whatever ACTIVE and MODE hold. -/
def execRdacc (lane : Lane) (s : State) : Host.Outcome State Fault Refusal :=
  unlessErr s fun s => s.setResult (s.acc.get lane)

/-- RdPort(a): the byte the read space shows at `a` (R28, R29). It is a view: reading changes nothing. -/
def rdPort (s : State) (a : ReadAddr) : Byte :=
  if h : a.toNat ≤ 0x1F then s.digest[a.toNat]
  else if h : a.toNat ≤ 0x27 then slot s.result ⟨a.toNat - 0x20, by omega⟩
  else if a.toNat = 0x28 then statusByte s
  else if a.toNat = 0x29 then s.errcode
  else if a.toNat = 0x2A then s.errcmd.extractLsb' 0 8
  else if a.toNat = 0x2B then s.errcmd.extractLsb' 8 8
  else 0x00

end Sys2Proof.Machine
end

