-- ==== Sys2Proof/Machine/Substitution.lean ====
section
/-! DEFINITION. TLOOK (40_substitution.md R51). -/

namespace Sys2Proof.Machine

/-- TLOOK(i): RESULT <- zext_64(S(i)) (R51). Legal whatever ACTIVE holds. -/
def execTlook (i : Byte) (s : State) : Host.Outcome State Fault Refusal :=
  unlessErr s fun s => s.setResult (zext64 (s.subst i))

end Sys2Proof.Machine
end

