-- ==== Sys2Proof/Machine/Dispatch.lean ====
section
/-! DEFINITION. One arm per command: each calls its meaning. -/

namespace Sys2Proof.Machine

/-- What a command does, in every state (R44's case split; R79's check stands in each meaning). -/
def exec (i : Instr) (s : State) : Host.Outcome State Fault Refusal :=
  match i with
  | .hstart w => Sys2Proof.Machine.execHstart w s
  | .hbyte b => Sys2Proof.Machine.execHbyte b s
  | .hfinal => Sys2Proof.Machine.execHfinal s
  | .tlook index => Sys2Proof.Machine.execTlook index s
  | .rdacc lane => Sys2Proof.Machine.execRdacc lane s

end Sys2Proof.Machine
end

