-- ==== Sys2Proof/Machine/Port.lean ====
section
/-! DEFINITION. The engine's ports: Execute(w) on the command port (R44), a host read (R29), reset (R89). -/

namespace Sys2Proof.Machine

/-- Execute(w), the engine's only step (R44): a word that is no command raises ILLEGAL_OPCODE or RESERVED_FIELD,
unless ERR = 1, and a command does what exec says. -/
def executeWord (w : CmdWord) (s : State) : Host.Outcome State Fault Refusal :=
  match decode w with
  | .error e => unlessErr s fun s => s.raiseFault (FaultCause.ofDecodeError e) w
  | .ok i => exec i s

/-- A host read of `a`: the host receives the byte and the engine is unchanged (R29). -/
def hostRead (a : ReadAddr) (s : State) : State := s.pushRead (rdPort s a)

/-- One action of the host on the engine (R29, R44, R89). -/
def takeAction (a : HostAction) (s : State) : Host.Outcome State Fault Refusal :=
  match a with
  | .write w => executeWord w s
  | .read a => .next (hostRead a s)
  | .reset => .next s.applyReset

/-- The state in which the host's next action is to write this word. -/
def State.withNextWord (s : State) (w : CmdWord) : State := s.setHost (.write w :: s.host)

end Sys2Proof.Machine
end

