-- ==== Sys2Proof/Machine/Step.lean ====
section
/-! DEFINITION. One step of the machine: the host's next action is taken, whole (R33, R34); with none, the engine idles (R87, R91). -/

namespace Sys2Proof.Machine

/-- One step. The host's actions are taken one at a time, in its order (R34; log entry 1). -/
def step (s : State) : Host.Outcome State Fault Refusal :=
  match s.host with
  | [] => .next s
  | a :: rest => takeAction a (s.setHost rest)

/-- The instruction of `nbits` bits with value `w` as the word the host writes next (log entries 9, 10). -/
def State.withFetchWord (s : State) (nbits w : Nat) : State :=
  match tableWord nbits w with
  | some c => s.withNextWord c
  | none => s

end Sys2Proof.Machine
end

