-- ==== Sys2Proof/Machine/Transactions.lean ====
section
/-! DEFINITION. The whole-buffer transactions HASH128 and HASH256 (30_encoding.md R47, 42_entry_points.md R67, R68): words
the host writes and bytes it reads. -/

namespace Sys2Proof.Machine

/-- The expansion of hash128 x or hash256 x: HSTART, one HBYTE per byte of `x` in order, HFINAL (R47). -/
def hashCommands (m : Mode) (x : List Byte) : List Instr :=
  .hstart m :: (x.map .hbyte ++ [.hfinal])

/-- The words of the expansion, n + 2 of them (R47). -/
def hashWords (m : Mode) (x : List Byte) : List CmdWord := (hashCommands m x).map encode

/-- The engine executes the words the host writes, one at a time and in order (R34, R44). -/
def executeAll : List CmdWord → State → Host.Outcome State Fault Refusal
  | [], s => .next s
  | w :: ws, s =>
    match executeWord w s with
    | .next t => executeAll ws t
    | .fault r => .fault r
    | .refused r => .refused r

/-- How many bytes the digest of a mode has (R1). -/
def digestLength : Mode → Nat
  | .w128 => 16
  | .w256 => 32

/-- The bytes the host reads at addresses 0x00 up to the digest's length (R47, R67, R68). -/
def readDigest (m : Mode) (s : State) : List Byte :=
  (List.range (digestLength m)).map fun k => rdPort s (BitVec.ofNat 6 k)

/-- The bytes that the HBYTE commands among these give, in order. -/
def inputBytes : List Instr → List Byte
  | [] => []
  | .hbyte b :: is => b :: inputBytes is
  | .hstart _ :: is => inputBytes is
  | .hfinal :: is => inputBytes is
  | .tlook _ :: is => inputBytes is
  | .rdacc _ :: is => inputBytes is

/-- P_v(x): the single-byte recurrence with seed byte `v` (R61). -/
def pearson (S : Byte → Byte) (v : Byte) (x : List Byte) : Byte :=
  x.foldl (fun s b => S (s ^^^ b ^^^ v)) 0

end Sys2Proof.Machine
end

