-- ==== Sys2Proof/Machine/Assembler.lean ====
section
/-! DEFINITION. The assembler (30_encoding.md R46, R47): a line to its command words, and the text of a line to the line. -/

namespace Sys2Proof.Machine

/-- A byte operand; one above 0xFF is refused (R46). -/
def byteOperand (n : Nat) : Option Byte := if n < 256 then some (BitVec.ofNat 8 n) else none

/-- A sequence of byte operands (R47). -/
def byteOperands : List Nat → Option (List Byte)
  | [] => some []
  | n :: ns =>
    match byteOperand n, byteOperands ns with
    | some b, some bs => some (b :: bs)
    | _, _ => none

/-- HSTART's width operand, 128 or 256 (R46). -/
def widthOperand (n : Nat) : Option Mode :=
  if n = 128 then some .w128 else if n = 256 then some .w256 else none

/-- RDACC's lane operand, 0 to 3 (R46). -/
def laneOperand (n : Nat) : Option Lane := if n < 4 then some (Lane.ofBits (BitVec.ofNat 2 n)) else none

/-- The words a line encodes to; none where the assembler refuses it (R46, R47). -/
def assemble : AsmLine → Option (List CmdWord)
  | .hstart width => (widthOperand width).map fun m => [encode (.hstart m)]
  | .hbyte b => (byteOperand b).map fun b => [encode (.hbyte b)]
  | .hfinal => some [encode .hfinal]
  | .tlook i => (byteOperand i).map fun i => [encode (.tlook i)]
  | .rdacc lane => (laneOperand lane).map fun l => [encode (.rdacc l)]
  | .hash128 x => (byteOperands x).map (hashWords .w128)
  | .hash256 x => (byteOperands x).map (hashWords .w256)

/-! The text of a line: "the mnemonic in lower case, then its operand. A comment starts with #" (R46). Blanks and the
spelling of numbers are the model's reading of R46 and R9 (DESIGN CHOICE, log entry 11). -/

/-- A line without its comment. -/
def stripComment (cs : List Char) : List Char := cs.takeWhile (· != '#')

/-- The words of a text between separators; `cur` is the word being read, last character first. -/
def splitOnChars (sep : Char → Bool) : List Char → List Char → List (List Char)
  | [], cur => [cur.reverse]
  | c :: cs, cur => if sep c then cur.reverse :: splitOnChars sep cs [] else splitOnChars sep cs (c :: cur)

/-- The words of a line, at spaces and tabs. -/
def tokens (cs : List Char) : List (List Char) :=
  (splitOnChars (fun c => c == ' ' || c == '\t' || c == '\r') cs []).filter fun t => !t.isEmpty

/-- The value of a digit in a base up to 16, letters in either case. -/
def digitValue (base : Nat) (c : Char) : Option Nat :=
  let v :=
    if '0' ≤ c ∧ c ≤ '9' then c.toNat - '0'.toNat
    else if 'a' ≤ c ∧ c ≤ 'f' then c.toNat - 'a'.toNat + 10
    else if 'A' ≤ c ∧ c ≤ 'F' then c.toNat - 'A'.toNat + 10
    else base
  if v < base then some v else none

/-- Digits after those that gave `acc`. -/
def digitsFrom (base : Nat) : Nat → List Char → Option Nat
  | acc, [] => some acc
  | acc, c :: cs => (digitValue base c).bind fun d => digitsFrom base (acc * base + d) cs

/-- At least one digit. -/
def digits (base : Nat) (cs : List Char) : Option Nat := if cs.isEmpty then none else digitsFrom base 0 cs

/-- A number, decimal or 0x-hex (R46). -/
def number : List Char → Option Nat
  | '0' :: 'x' :: cs => digits 16 cs
  | cs => digits 10 cs

/-- A byte written as a pair of hexadecimal digits (R9). -/
def hexPair (cs : List Char) : Option Nat := if cs.length = 2 then digits 16 cs else none

/-- A byte sequence written as hexadecimal pairs (R9, R47). -/
def hexPairs : List (List Char) → Option (List Nat)
  | [] => some []
  | t :: ts =>
    match hexPair t, hexPairs ts with
    | some n, some ns => some (n :: ns)
    | _, _ => none

/-- The line that these words spell, if they spell one (R46, R47). -/
def parseTokens : List (List Char) → Option AsmLine
  | [] => none
  | mn :: ops =>
    if mn = "hash128".toList then (hexPairs ops).map .hash128
    else if mn = "hash256".toList then (hexPairs ops).map .hash256
    else
      match ops with
      | [] => if mn = "hfinal".toList then some .hfinal else none
      | [op] =>
        if mn = "hstart".toList then (digits 10 op).map .hstart
        else if mn = "hbyte".toList then (number op).map .hbyte
        else if mn = "tlook".toList then (number op).map .tlook
        else if mn = "rdacc".toList then (number op).map .rdacc
        else none
      | _ :: _ :: _ => none

/-- The words of one line of text: none of them for a blank or comment line (R46). -/
def assembleLine (cs : List Char) : Option (List CmdWord) :=
  match tokens (stripComment cs) with
  | [] => some []
  | ts => (parseTokens ts).bind assemble

/-- The words of a list of lines. -/
def assembleLines : List (List Char) → Option (List CmdWord)
  | [] => some []
  | l :: ls =>
    match assembleLine l, assembleLines ls with
    | some ws, some rest => some (ws ++ rest)
    | _, _ => none

/-- The words of a program, one command a line (R46). -/
def assembleText (text : String) : Option (List CmdWord) :=
  assembleLines (splitOnChars (· == '\n') text.toList [])

end Sys2Proof.Machine
end

