-- ==== Sys2Proof/Machine/System.lean ====
section
/-! DEFINITION. A system of N_ENGINES independent engine instances (20_memory.md R36, 60_exceptions.md R85). -/

namespace Sys2Proof.Machine

/-- The engine instances of a system, each with its own copy of every element of state, and each with its host (R36). -/
structure System where
  engines : List State
  deriving DecidableEq, Repr

/-- N_ENGINES engines, each at reset (R85). -/
def System.reset : System := { engines := List.replicate Config.nEngines State.reset }

/-- Instance `k` takes a step. Any order of instances is a run: nothing orders them (R36; log entry 6). -/
def System.stepEngine (y : System) (k : Nat) : Host.Outcome System Fault Refusal :=
  match y.engines[k]? with
  | none => .next y
  | some s =>
    match step s with
    | .next t => .next { engines := y.engines.set k t }
    | .fault r => .fault r
    | .refused r => .refused r

end Sys2Proof.Machine
end

