-- ==== Sys2Proof/Safety.lean ====
section
/-! DEFINITION. What the statements are about: permutations, the engine's invariant, and when a host action is a command. -/

namespace Sys2Proof.Machine

/-- Every output value appears exactly once (R3, R49). -/
def IsPermutation (t : SubstTable) : Prop := ∀ y : Byte, ∃! x : Byte, lookup t x = y

/-- The fault that ERRCODE and ERRCMD record is one the word in ERRCMD can raise (R75): the code of its decode error,
or 0x03 for an HBYTE, or 0x04 for an HFINAL. -/
def FaultRecordSound (code : Byte) (w : CmdWord) : Prop :=
  match decode w with
  | .error e => code = (FaultCause.ofDecodeError e).code
  | .ok i => (∃ b, i = .hbyte b ∧ code = 0x03) ∨ (i = .hfinal ∧ code = 0x04)

/-- What every run of an engine keeps. -/
structure Inv (s : State) : Prop where
  /-- The active table is a bijection (R49). -/
  perm : IsPermutation s.srom
  /-- ERRCODE and ERRCMD are 0 while ERR = 0 (R19, R20). -/
  clean : s.err = false → s.errcode = 0x00 ∧ s.errcmd = 0x0000
  /-- While ERR = 1 they record a cause of R75 and its word. -/
  recorded : s.err = true → FaultRecordSound s.errcode s.errcmd
  /-- A recorded sequencing fault came with no invocation open, and none has been opened since (R76, R79). -/
  sequenced : s.err = true → s.errcode = 0x03 ∨ s.errcode = 0x04 → s.active = false
  /-- An open invocation has no finished digest (R16, R17). -/
  openNotDone : s.active = true → s.done = false
  /-- While DONE = 0 every DIGEST byte is 0x00 (R74). -/
  blank : s.done = false → s.digest = Digest.zero
  /-- While DONE = 1 DIGEST holds the digest that MODE and the accumulators give (R17, R66). -/
  finished : s.done = true → s.digest = finalDigest s.mode s.acc
  /-- In the 128-bit mode lanes 2 and 3 hold 0 (R60, R73). -/
  upperZero : s.mode = .w128 → s.acc.lowLaneUpper = 0 ∧ s.acc.highLaneUpper = 0
  /-- With no invocation open and none finished, the engine is as reset leaves it: every lane reads 0 (R89, R91). -/
  idle : s.active = false → s.done = false → s.mode = .w128 ∧ s.acc = LaneFile.zero

/-- The word's OP is 0x0 or 0x6 to 0xF (R43), said on its bits. -/
abbrev IllegalWord (w : CmdWord) : Prop := w.extractLsb' 12 4 = 0x0 ∨ 6 ≤ (w.extractLsb' 12 4).toNat

/-- The word's OP is legal and a bit that R41 lists as reserved-zero for it is 1 (R42), said on its bits. -/
abbrev MalformedWord (w : CmdWord) : Prop :=
  (w.extractLsb' 12 4 = 0x1 ∧ (w.extractLsb' 9 3 ≠ 0 ∨ w.extractLsb' 0 8 ≠ 0)) ∨
  (w.extractLsb' 12 4 = 0x2 ∧ w.extractLsb' 8 4 ≠ 0) ∨
  (w.extractLsb' 12 4 = 0x3 ∧ (w.extractLsb' 8 4 ≠ 0 ∨ w.extractLsb' 0 8 ≠ 0)) ∨
  (w.extractLsb' 12 4 = 0x4 ∧ w.extractLsb' 8 4 ≠ 0) ∨
  (w.extractLsb' 12 4 = 0x5 ∧ (w.extractLsb' 10 2 ≠ 0 ∨ w.extractLsb' 0 8 ≠ 0))

/-- The next thing the host does is write a word to the command port. -/
def NextIsWrite (s : State) : Prop := ∃ w rest, s.host = .write w :: rest

/-- The next thing the host does is drive reset. -/
def NextIsReset (s : State) : Prop := ∃ rest, s.host = .reset :: rest

end Sys2Proof.Machine
end

