-- ==== Sys2Proof/Certificates/Slice0/Obligations.lean ====
section
/-! DEFINITION. The statements for the provers, from the spec's numbered rules, file by file. -/

open Sys2Proof Sys2Proof.Machine

/-! ## Encoding (30_encoding.md) -/

/-- Nine words written out from the encodings of R41 and the syntax table of R46 decode to the command they stand for. -/
def Obligations.SpecWordsDecode : Prop :=
  decode 0b0001000000000000 = .ok (.hstart .w128) ∧
  decode 0b0001000100000000 = .ok (.hstart .w256) ∧
  decode 0b0010000001100001 = .ok (.hbyte 0x61) ∧
  decode 0b0010000011111111 = .ok (.hbyte 0xFF) ∧
  decode 0b0011000000000000 = .ok .hfinal ∧
  decode 0b0100000011111110 = .ok (.tlook 0xFE) ∧
  decode 0b0101000000000000 = .ok (.rdacc .lowLane) ∧
  decode 0b0101000100000000 = .ok (.rdacc .highLane) ∧
  decode 0b0101001100000000 = .ok (.rdacc .highLaneUpper)

/-- Decode and encode agree, in both directions: every command is what its word decodes to, and every word that decodes
is the word of the command it decodes to (R40, R41). -/
def Obligations.DecodeInvertsEncode : Prop :=
  (∀ i : Instr, i.wellFormed = true → decode (encode i) = .ok i) ∧
  (∀ (w : CmdWord) (i : Instr), decode w = .ok i → encode i = w)

/-- R41: the opcode map, and that the legal command words are exactly those it lists, 519 of them. -/
def Obligations.LegalCommandWords : Prop :=
  (decode 0x1000 = .ok (.hstart .w128) ∧ decode 0x1100 = .ok (.hstart .w256)) ∧
  (∀ b : Byte, decode (0x2000 ||| b.setWidth 16) = .ok (.hbyte b)) ∧
  decode 0x3000 = .ok .hfinal ∧
  (∀ i : Byte, decode (0x4000 ||| i.setWidth 16) = .ok (.tlook i)) ∧
  (decode 0x5000 = .ok (.rdacc .lowLane) ∧ decode 0x5100 = .ok (.rdacc .highLane) ∧
    decode 0x5200 = .ok (.rdacc .lowLaneUpper) ∧ decode 0x5300 = .ok (.rdacc .highLaneUpper)) ∧
  (∀ w : CmdWord, IllegalWord w ↔ decode w = .error .illegalOpcode) ∧
  (∀ w : CmdWord, MalformedWord w ↔ decode w = .error .reservedField) ∧
  (∀ w : CmdWord, (∃ i, decode w = .ok i) ↔
    w = 0x1000 ∨ w = 0x1100 ∨ (0x2000 ≤ w.toNat ∧ w.toNat ≤ 0x20FF) ∨ w = 0x3000 ∨
    (0x4000 ≤ w.toNat ∧ w.toNat ≤ 0x40FF) ∨ w = 0x5000 ∨ w = 0x5100 ∨ w = 0x5200 ∨ w = 0x5300) ∧
  (∃ ws : List CmdWord, ws.Nodup ∧ ws.length = 519 ∧ ∀ w, w ∈ ws ↔ ∃ i, decode w = .ok i)

/-- R42: a legal opcode with a reserved-zero bit set raises RESERVED_FIELD (code 0x02) and has no other effect. -/
def Obligations.ReservedBitFaults : Prop :=
  ∀ (w : CmdWord) (s : State), s.err = false → MalformedWord w →
    executeWord w s = .next { s with err := true, errcode := 0x02, errcmd := w }

/-- R43: OP = 0x0 or 0x6 to 0xF raises ILLEGAL_OPCODE (code 0x01) whatever the other bits, and has no other effect; the
all-zero word is one of them; and no command is a no-op: each changes some state in which no fault stands. -/
def Obligations.IllegalOpcodeFaults : Prop :=
  (∀ (w : CmdWord) (s : State), s.err = false → IllegalWord w →
    executeWord w s = .next { s with err := true, errcode := 0x01, errcmd := w }) ∧
  IllegalWord 0x0000 ∧
  (∀ i : Instr, ∃ s t : State, s.err = false ∧ exec i s = .next t ∧ t ≠ s)

/-- R44: writing `w` to the command port does what the pseudocode of Execute(w) says, read on the word's bits. -/
def Obligations.ExecuteFollowsPseudocode : Prop :=
  ∀ (w : CmdWord) (s : State),
    executeWord w s =
      (if s.err = true then .next s
      else if IllegalWord w then .next (s.raiseFault .illegalOpcode w)
      else if MalformedWord w then .next (s.raiseFault .reservedField w)
      else if w.extractLsb' 12 4 = 0x1 then exec (.hstart (Mode.ofBit (w.extractLsb' 8 1))) s
      else if w.extractLsb' 12 4 = 0x2 then exec (.hbyte (w.extractLsb' 0 8)) s
      else if w.extractLsb' 12 4 = 0x3 then exec .hfinal s
      else if w.extractLsb' 12 4 = 0x4 then exec (.tlook (w.extractLsb' 0 8)) s
      else exec (.rdacc (Lane.ofBits (w.extractLsb' 8 2))) s)

/-- A step runs the decoded command: when the host's next action is to write a word that decodes to `i`, the step is
exec of `i` at the state in which that action is no longer to do, and nothing else is done around it. The list of host
actions is the model's choice (log entry 1). -/
def Obligations.StepRunsDecodedCommand : Prop :=
  ∀ (s : State) (w : CmdWord) (rest : List HostAction) (i : Instr),
    s.host = .write w :: rest → decode w = .ok i → i.wellFormed = true →
      step s = exec i { s with host := rest }

/-- What a step does with each kind of host action: a word goes to Execute, a read returns a byte, reset resets, and with
nothing to do the engine idles. The list of host actions and the list of bytes read are the model's choice (log entries
1 and 2). -/
def Obligations.StepTakesHostActions : Prop :=
  (∀ s : State, s.host = [] → step s = .next s) ∧
  (∀ (s : State) (w : CmdWord) (rest : List HostAction), s.host = .write w :: rest →
    step s = executeWord w { s with host := rest }) ∧
  (∀ (s : State) (a : ReadAddr) (rest : List HostAction), s.host = .read a :: rest →
    step s = .next { s with host := rest, reads := rdPort s a :: s.reads }) ∧
  (∀ (s : State) (rest : List HostAction), s.host = .reset :: rest →
    step s = .next { State.reset with srom := s.srom, variant := s.variant, host := rest, reads := s.reads })

/-- R46: the encodings of the assembler's lines; an operand out of range is refused, and nothing else; and every word
the assembler spells is the word of a command, never illegal or malformed. -/
def Obligations.AssemblerSpellsLegalWords : Prop :=
  (assemble (.hstart 128) = some [0x1000] ∧ assemble (.hstart 256) = some [0x1100]) ∧
  (∀ b : Nat, b ≤ 0xFF → assemble (.hbyte b) = some [0x2000 ||| BitVec.ofNat 16 b]) ∧
  assemble .hfinal = some [0x3000] ∧
  (∀ i : Nat, i ≤ 0xFF → assemble (.tlook i) = some [0x4000 ||| BitVec.ofNat 16 i]) ∧
  (∀ l : Nat, l ≤ 3 → assemble (.rdacc l) = some [0x5000 ||| (BitVec.ofNat 16 l <<< 8)]) ∧
  (∀ line : AsmLine, assemble line = none ↔ line.wellFormed = false) ∧
  (∀ (line : AsmLine) (ws : List CmdWord), assemble line = some ws → ∀ w ∈ ws, ∃ i, decode w = .ok i)

/-- R47: hash128 x and hash256 x expand to HSTART, one HBYTE per byte of x in order, and HFINAL: n + 2 command words. -/
def Obligations.HashPseudoExpansion : Prop :=
  (∀ x : List Byte, hashWords .w128 x = 0x1000 :: (x.map (fun b => 0x2000 ||| b.setWidth 16) ++ [0x3000])) ∧
  (∀ x : List Byte, hashWords .w256 x = 0x1100 :: (x.map (fun b => 0x2000 ||| b.setWidth 16) ++ [0x3000])) ∧
  (∀ (m : Mode) (x : List Byte), (hashWords m x).length = x.length + 2)

/-! ## State and read space (10_state.md, 20_memory.md) -/

/-- R11, R12: the slot values of the four seed masks, and their words, the only ones with those slots. -/
def Obligations.SeedMaskValues : Prop :=
  mask .lowLane = 0x0706050403020100 ∧ mask .highLane = 0x0F0E0D0C0B0A0908 ∧
  mask .lowLaneUpper = 0x1716151413121110 ∧ mask .highLaneUpper = 0x1F1E1D1C1B1A1918 ∧
  (∀ i : Fin 8, (slot (mask .lowLane) i).toNat = i ∧ (slot (mask .highLane) i).toNat = 8 + i ∧
    (slot (mask .lowLaneUpper) i).toNat = 16 + i ∧ (slot (mask .highLaneUpper) i).toNat = 24 + i) ∧
  (∀ (l : Lane) (w : Word), (∀ i : Fin 8, (slot w i).toNat = 8 * l.toBits.toNat + i) → w = mask l)

/-- R23: STATUS bit by bit. -/
def Obligations.StatusBits : Prop :=
  ∀ s : State,
    (statusByte s).getLsbD 0 = s.active ∧
    (statusByte s).getLsbD 1 = s.done ∧
    (statusByte s).getLsbD 2 = decide (s.mode = .w256) ∧
    (statusByte s).getLsbD 3 = s.err ∧
    (statusByte s).getLsbD 4 = decide (s.variant = .rfc3074) ∧
    (statusByte s).extractLsb' 5 3 = 0

/-- R28: the byte map of the read space, every address. -/
def Obligations.ReadSpaceMap : Prop :=
  ∀ s : State,
    (∀ a : Fin 32, rdPort s (BitVec.ofNat 6 a) = s.digest[a]) ∧
    (∀ k : Fin 8, rdPort s (BitVec.ofNat 6 (0x20 + k)) = slot s.result k) ∧
    rdPort s 0x28 = statusByte s ∧
    rdPort s 0x29 = s.errcode ∧
    rdPort s 0x2A = s.errcmd.extractLsb' 0 8 ∧
    rdPort s 0x2B = s.errcmd.extractLsb' 8 8 ∧
    (∀ a : ReadAddr, 0x2C ≤ a.toNat → rdPort s a = 0x00)

/-- R29: a host read completes in every state, under a fault and in an open invocation too, returns the byte of the
current state, changes no state of the engine, and can be repeated. The byte goes to the model's list of bytes read
(log entry 2). -/
def Obligations.HostReadHasNoSideEffect : Prop :=
  ∀ (s : State) (a : ReadAddr),
    takeAction (.read a) s = .next { s with reads := rdPort s a :: s.reads } ∧
    ∀ a' : ReadAddr, rdPort (hostRead a s) a' = rdPort s a'

/-- R30: multi-byte registers are little-endian in the read space: bits 8k+7:8k at the base address plus k. -/
def Obligations.LittleEndianReads : Prop :=
  ∀ s : State,
    (∀ k : Fin 8, ∀ j : Fin 8, (rdPort s (BitVec.ofNat 6 (0x20 + k))).getLsbD j = s.result.getLsbD (8 * k + j)) ∧
    (∀ k : Fin 2, ∀ j : Fin 8, (rdPort s (BitVec.ofNat 6 (0x2A + k))).getLsbD j = s.errcmd.getLsbD (8 * k + j)) ∧
    s.result = rdPort s 0x27 ++ rdPort s 0x26 ++ rdPort s 0x25 ++ rdPort s 0x24 ++ rdPort s 0x23 ++ rdPort s 0x22 ++
      rdPort s 0x21 ++ rdPort s 0x20 ∧
    s.errcmd = rdPort s 0x2B ++ rdPort s 0x2A

/-- R34: host program order. When the host writes some words and then reads, the steps run exactly those words, in that
order, and the byte read is that of the state they leave; what the host does afterwards has no part in it. Said through
the model's list of host actions (log entries 1 and 2). -/
def Obligations.ReadsFollowProgramOrder : Prop :=
  ∀ (ws : List CmdWord) (a : ReadAddr) (rest : List HostAction) (s t : State),
    executeAll ws { s with host := rest } = .next t →
      Sys2Proof.core.run (ws.length + 1) { s with host := ws.map HostAction.write ++ .read a :: rest } =
        .next { t with reads := rdPort t a :: t.reads }

/-- R36, R85: instances are independent. A step of one instance completes, leaves every other instance as it was, and
depends on no other instance; and each instance starts at reset. -/
def Obligations.EnginesAreIndependent : Prop :=
  (∀ (y : System) (k : Nat), ∃ y', y.stepEngine k = .next y' ∧ y'.engines.length = y.engines.length ∧
    (∀ j, j ≠ k → y'.engines[j]? = y.engines[j]?) ∧
    (∀ s t, y.engines[k]? = some s → step s = .next t → y'.engines[k]? = some t)) ∧
  System.reset.engines.length = (Config.nEngines : Nat) ∧
  (∀ k, k < (Config.nEngines : Nat) → System.reset.engines[k]? = some State.reset)

/-- R10, R15 to R22: only the named commands write each element of state. Each clause is about a command that completes
from any state; a fault entry is told by ERR. -/
def Obligations.OnlyNamedWriters : Prop :=
  ∀ (i : Instr) (s t : State), exec i s = .next t →
    (t.acc ≠ s.acc → (∃ m, i = .hstart m) ∨ (∃ b, i = .hbyte b)) ∧
    (t.mode ≠ s.mode → ∃ m, i = .hstart m) ∧
    (t.active ≠ s.active → (∃ m, i = .hstart m) ∨ i = .hfinal) ∧
    (t.done ≠ s.done → (∃ m, i = .hstart m) ∨ i = .hfinal) ∧
    (t.digest ≠ s.digest → (∃ m, i = .hstart m) ∨ i = .hfinal) ∧
    (t.result ≠ s.result → (∃ x, i = .tlook x) ∨ (∃ l, i = .rdacc l)) ∧
    (t.err ≠ s.err ∨ t.errcode ≠ s.errcode ∨ t.errcmd ≠ s.errcmd →
      s.err = false ∧ t.err = true ∧ s.active = false ∧ ((∃ b, i = .hbyte b) ∨ i = .hfinal)) ∧
    t.srom = s.srom ∧ t.variant = s.variant ∧ t.host = s.host ∧ t.reads = s.reads

/-- R2, R14, R90: no action of the host, reset among them, changes SROM or SBOX_VARIANT; so S is the same function
before and after. -/
def Obligations.TableNeverChanges : Prop :=
  ∀ (a : HostAction) (s t : State), takeAction a s = .next t →
    t.srom = s.srom ∧ t.variant = s.variant ∧ ∀ x, t.subst x = s.subst x

/-! ## Substitution table (40_substitution.md) -/

/-- R49: in the engine as built, S is a bijection on bytes, for either variant, and has an inverse. -/
def Obligations.TableIsBijection : Prop :=
  (∀ v : SboxVariant, IsPermutation (Config.srom v)) ∧
  (∀ y : Byte, ∃! x : Byte, State.reset.subst x = y) ∧
  (∃ inv : Byte → Byte, (∀ x, inv (State.reset.subst x) = x) ∧ ∀ y, State.reset.subst (inv y) = y)

/-- R51: TLOOK. Its word; its effect and nothing else, whatever ACTIVE holds; the upper 56 bits of RESULT are 0; all 256
indices return each value exactly once; RESERVED_FIELD when X is not 0; ignored under a fault. -/
def Obligations.TlookReadsTable : Prop :=
  (∀ i : Byte, encode (.tlook i) = 0x4000 ||| i.setWidth 16) ∧
  (∀ (i : Byte) (s : State), s.err = false →
    exec (.tlook i) s = .next { s with result := (s.subst i).setWidth 64 }) ∧
  (∀ (i : Byte) (s t : State), s.err = false → exec (.tlook i) s = .next t →
    t.result.extractLsb' 8 56 = 0 ∧ rdPort t 0x20 = lookup s.srom i) ∧
  (∀ s : State, s.err = false → IsPermutation s.srom →
    ∀ y : Byte, ∃! i : Byte, ∃ t, exec (.tlook i) s = .next t ∧ rdPort t 0x20 = y) ∧
  (∀ (w : CmdWord) (s : State), s.err = false → w.extractLsb' 12 4 = 0x4 → w.extractLsb' 8 4 ≠ 0 →
    executeWord w s = .next { s with err := true, errcode := 0x02, errcmd := w }) ∧
  (∀ (i : Byte) (s : State), s.err = true → exec (.tlook i) s = .next s)

/-! ## Lane recurrence (41_lane_recurrence.md) -/

/-- R52: Bcast(b) is the word with b in every slot, and equals b * 0x0101010101010101. -/
def Obligations.BroadcastFillsSlots : Prop :=
  (∀ (b : Byte) (i : Fin 8), slot (bcast b) i = b) ∧
  (∀ (b : Byte) (w : Word), (∀ i, slot w i = b) → w = bcast b) ∧
  (∀ b : Byte, bcast b = b.setWidth 64 * 0x0101010101010101) ∧
  bcast 0x61 = 0x6161616161616161

/-- R53: Mix is XOR with the broadcast byte and the mask, slot by slot. -/
def Obligations.MixSlotLaw : Prop :=
  (∀ (acc m : Word) (b : Byte), mix acc b m = acc ^^^ bcast b ^^^ m) ∧
  (∀ (acc m : Word) (b : Byte) (i : Fin 8), slot (mix acc b m) i = slot acc i ^^^ b ^^^ slot m i) ∧
  mix 0 0x61 (mask .lowLane) = 0x6667646562636061

/-- R55: SubRot is 8 micro-rounds from h = 0, and the initial value of the scratch word has no effect. -/
def Obligations.ScratchStartIrrelevant : Prop :=
  (∀ (S : Byte → Byte) (a : Word),
    subRot S a = (micro S (micro S (micro S (micro S (micro S (micro S (micro S (micro S (a, 0))))))))).2) ∧
  (∀ (S : Byte → Byte) (h a : Word), subRotFrom S h a = subRot S a)

/-- R56: the slot law of SubRot; and the way of each byte through the rounds: the byte substituted in round r is
S(slot(a, r)), and n rounds later it is in slot 7 - n. -/
def Obligations.SubRotSlotLaw : Prop :=
  (∀ (S : Byte → Byte) (a : Word) (i : Fin 8), slot (subRot S a) i = S (slot a i)) ∧
  (∀ (S : Byte → Byte) (a h : Word) (r n : Fin 8) (k : Fin 8), r.val + n.val ≤ 7 → k.val + n.val = 7 →
    slot (microRounds S (r.val + 1 + n.val) (a, h)).2 k = S (slot a r))

/-- R58: the slot law of the lane step, and its inverse for a bijective table. -/
def Obligations.LaneStepSlotLaw : Prop :=
  (∀ (S : Byte → Byte) (acc m : Word) (b : Byte) (i : Fin 8),
    slot (laneStep S acc b m) i = S (slot acc i ^^^ b ^^^ slot m i)) ∧
  (∀ (S : Byte → Byte), Function.Bijective S → ∀ inv : Byte → Byte, (∀ x, inv (S x) = x) →
    ∀ (acc m : Word) (b : Byte) (i : Fin 8),
      slot acc i = inv (slot (laneStep S acc b m) i) ^^^ b ^^^ slot m i) ∧
  (∀ (S : Byte → Byte), Function.Bijective S → ∀ (acc acc' m : Word) (b : Byte),
    laneStep S acc b m = laneStep S acc' b m → acc = acc')

/-- R59: lane independence. A lane's new value depends only on that lane, its mask, the byte and SROM; a lane's step
writes only that lane; and the order of the active lanes makes no difference. -/
def Obligations.LanesAreIndependent : Prop :=
  (∀ (s s' : State) (l : Lane) (b : Byte), s.srom = s'.srom → s.acc.get l = s'.acc.get l →
    (stepLane b s l).acc.get l = (stepLane b s' l).acc.get l) ∧
  (∀ (s : State) (l k : Lane) (b : Byte), k ≠ l → (stepLane b s l).acc.get k = s.acc.get k) ∧
  (∀ (s : State) (l : Lane) (b : Byte), stepLane b s l = { s with acc := (stepLane b s l).acc }) ∧
  (∀ (s : State) (b : Byte) (ls : List Lane), ls.Perm (activeLanes s.mode) →
    ls.foldl (stepLane b) s = foldByte b s)

/-- R60: HBYTE. Its word; in an open invocation the lane step of lanes 0 and 1, or of all four, and nothing else;
NO_INVOCATION_BYTE with no invocation; RESERVED_FIELD when X is not 0; ignored under a fault; a zero byte folds the mask
alone, and a slot that mixes to 0 becomes S(0); under the identity table two equal bytes in a row cancel. -/
def Obligations.HbyteFoldsActiveLanes : Prop :=
  (∀ b : Byte, encode (.hbyte b) = 0x2000 ||| b.setWidth 16) ∧
  (∀ (b : Byte) (s : State), s.err = false → s.active = true → s.mode = .w128 →
    exec (.hbyte b) s = .next { s with acc :=
      { s.acc with
        lowLane := laneStep (lookup s.srom) s.acc.lowLane b (mask .lowLane)
        highLane := laneStep (lookup s.srom) s.acc.highLane b (mask .highLane) } }) ∧
  (∀ (b : Byte) (s : State), s.err = false → s.active = true → s.mode = .w256 →
    exec (.hbyte b) s = .next { s with acc :=
      { lowLane := laneStep (lookup s.srom) s.acc.lowLane b (mask .lowLane)
        highLane := laneStep (lookup s.srom) s.acc.highLane b (mask .highLane)
        lowLaneUpper := laneStep (lookup s.srom) s.acc.lowLaneUpper b (mask .lowLaneUpper)
        highLaneUpper := laneStep (lookup s.srom) s.acc.highLaneUpper b (mask .highLaneUpper) } }) ∧
  (∀ (b : Byte) (s : State), s.err = false → s.active = false →
    exec (.hbyte b) s = .next { s with err := true, errcode := 0x03, errcmd := encode (.hbyte b) }) ∧
  (∀ (w : CmdWord) (s : State), s.err = false → w.extractLsb' 12 4 = 0x2 → w.extractLsb' 8 4 ≠ 0 →
    executeWord w s = .next { s with err := true, errcode := 0x02, errcmd := w }) ∧
  (∀ (b : Byte) (s : State), s.err = true → exec (.hbyte b) s = .next s) ∧
  (∀ (s t : State) (l : Lane) (i : Fin 8), s.err = false → s.active = true → l ∈ activeLanes s.mode →
    exec (.hbyte 0x00) s = .next t →
      slot (t.acc.get l) i = s.subst (slot (s.acc.get l) i ^^^ slot (mask l) i) ∧
      (s.acc.get l = mask l → slot (t.acc.get l) i = s.subst 0)) ∧
  (∀ (b : Byte) (s t u : State), s.err = false → s.active = true → (∀ x, lookup s.srom x = x) →
    exec (.hbyte b) s = .next t → exec (.hbyte b) t = .next u → u.acc = s.acc)

/-- R60, frame: whatever happens, HBYTE leaves MODE, ACTIVE, DONE, DIGEST, RESULT, the table and the host as they were,
and the lanes that are not active; when it folds, ERR, ERRCODE, ERRCMD and every byte of the read space too; when it
faults, every accumulator. -/
def Obligations.HbyteFrame : Prop :=
  ∀ (b : Byte) (s t : State), exec (.hbyte b) s = .next t →
    (t.mode = s.mode ∧ t.active = s.active ∧ t.done = s.done ∧ t.digest = s.digest ∧ t.result = s.result ∧
      t.srom = s.srom ∧ t.variant = s.variant ∧ t.host = s.host ∧ t.reads = s.reads) ∧
    (∀ l, l ∉ activeLanes s.mode → t.acc.get l = s.acc.get l) ∧
    (s.active = true → t.err = s.err ∧ t.errcode = s.errcode ∧ t.errcmd = s.errcmd ∧
      ∀ a, rdPort t a = rdPort s a) ∧
    (s.active = false → t.acc = s.acc ∧ ∀ a : ReadAddr, a.toNat < 0x28 → rdPort t a = rdPort s a)

/-- R61: after HSTART and HBYTE for each byte of x, slot i of every active lane l is P_v(x), with v = 8l + i the seed
byte in that slot of the lane's mask. -/
def Obligations.LaneClosedForm : Prop :=
  ∀ (m : Mode) (x : List Byte) (s : State), s.err = false →
    ∃ t, executeAll (encode (.hstart m) :: x.map fun b => encode (.hbyte b)) s = .next t ∧
      ∀ l, l ∈ activeLanes m → ∀ i : Fin 8,
        slot (t.acc.get l) i = pearson s.subst (BitVec.ofNat 8 (8 * l.toBits.toNat + i)) x ∧
        slot (mask l) i = BitVec.ofNat 8 (8 * l.toBits.toNat + i)

/-! ## Invocations and digests (42_entry_points.md, 43_observation.md) -/

/-- R62: HSTART. Its words; its effect and nothing else, an open invocation or not; RESERVED_FIELD when X[3:1] or IMM8
is not 0; ignored under a fault; STATUS 0x05 after hstart 256 in a paper build. -/
def Obligations.HstartOpensInvocation : Prop :=
  (encode (.hstart .w128) = 0x1000 ∧ encode (.hstart .w256) = 0x1100) ∧
  (∀ (m : Mode) (s : State), s.err = false →
    exec (.hstart m) s = .next { s with
      acc := { lowLane := 0, highLane := 0, lowLaneUpper := 0, highLaneUpper := 0 }
      mode := m, active := true, done := false, digest := Vector.replicate 32 0x00 }) ∧
  (∀ (w : CmdWord) (s : State), s.err = false → w.extractLsb' 12 4 = 0x1 →
    w.extractLsb' 9 3 ≠ 0 ∨ w.extractLsb' 0 8 ≠ 0 →
    executeWord w s = .next { s with err := true, errcode := 0x02, errcmd := w }) ∧
  (∀ (m : Mode) (s : State), s.err = true → exec (.hstart m) s = .next s) ∧
  (∀ s t : State, s.err = false → s.variant = .paper → exec (.hstart .w256) s = .next t → rdPort t 0x28 = 0x05)

/-- R63, R64, R65: the serializer and the two finalizers, byte by byte. -/
def Obligations.FinalizerBytes : Prop :=
  (∀ (w : Word) (k : Fin 8), (ser w)[k] = slot w k) ∧
  ser 0x6768656663646162 = #v[0x62, 0x61, 0x64, 0x63, 0x66, 0x65, 0x68, 0x67] ∧
  (∀ (f : LaneFile) (k : Fin 8),
    (final128 f)[k.val] = slot (f.get .lowLane) k ∧ (final128 f)[8 + k.val] = slot (f.get .highLane) k) ∧
  (∀ (f : LaneFile) (k : Fin 8),
    (final256 f)[k.val] = slot (f.get .highLaneUpper) k ∧ (final256 f)[8 + k.val] = slot (f.get .lowLaneUpper) k ∧
    (final256 f)[16 + k.val] = slot (f.get .lowLane) k ∧ (final256 f)[24 + k.val] = slot (f.get .highLane) k)

/-- R66: HFINAL. Its word; in an open invocation the digest of the mode, ACTIVE 0, DONE 1 and nothing else;
NO_INVOCATION_FINAL with no invocation; RESERVED_FIELD when X or IMM8 is not 0; ignored under a fault; and right after
HSTART the all-zero digest. -/
def Obligations.HfinalWritesDigest : Prop :=
  encode .hfinal = 0x3000 ∧
  (∀ s : State, s.err = false → s.active = true →
    ∃ d : Digest, exec .hfinal s = .next { s with digest := d, active := false, done := true } ∧
      (s.mode = .w128 → (∀ k : Fin 16, d[k.val] = (final128 s.acc)[k]) ∧ ∀ k : Fin 16, d[16 + k.val] = 0x00) ∧
      (s.mode = .w256 → ∀ k : Fin 32, d[k] = (final256 s.acc)[k])) ∧
  (∀ s : State, s.err = false → s.active = false →
    exec .hfinal s = .next { s with err := true, errcode := 0x04, errcmd := 0x3000 }) ∧
  (∀ (w : CmdWord) (s : State), s.err = false → w.extractLsb' 12 4 = 0x3 →
    w.extractLsb' 8 4 ≠ 0 ∨ w.extractLsb' 0 8 ≠ 0 →
    executeWord w s = .next { s with err := true, errcode := 0x02, errcmd := w }) ∧
  (∀ s : State, s.err = true → exec .hfinal s = .next s) ∧
  (∀ (m : Mode) (s t u : State), s.err = false → exec (.hstart m) s = .next t → exec .hfinal t = .next u →
    u.digest = Digest.zero ∧ u.done = true)

/-- R62, R66, frame: HSTART leaves RESULT, the fault record, the table and the host as they were, and HFINAL the
accumulators and MODE besides; of the read space HSTART and a closing HFINAL change only the digest and STATUS. -/
def Obligations.HstartHfinalFrame : Prop :=
  (∀ (m : Mode) (s t : State), exec (.hstart m) s = .next t →
    t.result = s.result ∧ t.err = s.err ∧ t.errcode = s.errcode ∧ t.errcmd = s.errcmd ∧ t.srom = s.srom ∧
    t.variant = s.variant ∧ t.host = s.host ∧ t.reads = s.reads ∧
    ∀ a : ReadAddr, 0x20 ≤ a.toNat → a.toNat ≠ 0x28 → rdPort t a = rdPort s a) ∧
  (∀ s t : State, exec .hfinal s = .next t →
    t.acc = s.acc ∧ t.mode = s.mode ∧ t.result = s.result ∧ t.srom = s.srom ∧ t.variant = s.variant ∧
    t.host = s.host ∧ t.reads = s.reads ∧
    (s.active = true → t.err = s.err ∧ t.errcode = s.errcode ∧ t.errcmd = s.errcmd ∧
      ∀ a : ReadAddr, 0x20 ≤ a.toNat → a.toNat ≠ 0x28 → rdPort t a = rdPort s a) ∧
    (s.active = false → t.active = s.active ∧ t.done = s.done ∧ t.digest = s.digest ∧
      ∀ a : ReadAddr, a.toNat < 0x28 → rdPort t a = rdPort s a))

/-- R67, R68: the whole-buffer transactions. From any state without a fault the expansion completes and ends with
ACTIVE 0, DONE 1, the MODE asked for, ERR 0, the finalizer's digest, which the host's reads return, and RESULT as it
was; the accumulators and the digest depend on nothing before the HSTART. The second clause names the fields host and
reads, which are the model's own (log entries 1 and 2): they are as they were, like RESULT. -/
def Obligations.TransactionResult : Prop :=
  (∀ (m : Mode) (x : List Byte) (s : State), s.err = false →
    ∃ t, executeAll (hashWords m x) s = .next t ∧
      t.active = false ∧ t.done = true ∧ t.mode = m ∧ t.err = false ∧ t.result = s.result ∧
      t.digest = finalDigest m t.acc ∧
      (m = .w128 → readDigest m t = (final128 t.acc).toList) ∧
      (m = .w256 → readDigest m t = (final256 t.acc).toList)) ∧
  (∀ (m : Mode) (x : List Byte) (s s' t t' : State), Inv s → Inv s' → s.err = false → s'.err = false →
    s.srom = s'.srom → s.variant = s'.variant →
    executeAll (hashWords m x) s = .next t → executeAll (hashWords m x) s' = .next t' →
    t' = { t with result := s'.result, host := s'.host, reads := s'.reads })

/-- R69: the digest of the empty input is all zeros, in both widths, under every table; and so is that of 61 61 under
the identity table. -/
def Obligations.EmptyInputDigest : Prop :=
  (∀ (m : Mode) (s : State), s.err = false →
    ∃ t, executeAll (hashWords m []) s = .next t ∧ readDigest m t = List.replicate (digestLength m) 0x00) ∧
  (∀ (m : Mode) (s : State), s.err = false → (∀ x, lookup s.srom x = x) →
    ∃ t, executeAll (hashWords m [0x61, 0x61]) s = .next t ∧ readDigest m t = List.replicate (digestLength m) 0x00)

/-- R70: the last 16 bytes of hash256(x) are hash128(x), for every x and every table. -/
def Obligations.CrossConsistency : Prop :=
  ∀ (x : List Byte) (s : State), s.err = false →
    ∃ t u, executeAll (hashWords .w256 x) s = .next t ∧ executeAll (hashWords .w128 x) s = .next u ∧
      (readDigest .w256 t).drop 16 = readDigest .w128 u

/-- R71: every digest byte is one classical Pearson recurrence with its own seed byte. -/
def Obligations.DigestClosedForm : Prop :=
  ∀ (x : List Byte) (s : State), s.err = false →
    ∃ t u, executeAll (hashWords .w128 x) s = .next t ∧ executeAll (hashWords .w256 x) s = .next u ∧
      (∀ k : Fin 16, rdPort t (BitVec.ofNat 6 k) = pearson s.subst (BitVec.ofNat 8 k) x) ∧
      (∀ k : Fin 8, rdPort u (BitVec.ofNat 6 k) = pearson s.subst (BitVec.ofNat 8 (24 + k)) x) ∧
      (∀ k : Fin 8, rdPort u (BitVec.ofNat 6 (8 + k)) = pearson s.subst (BitVec.ofNat 8 (8 + (8 + k))) x) ∧
      (∀ k : Fin 16, rdPort u (BitVec.ofNat 6 (16 + k)) = pearson s.subst (BitVec.ofNat 8 k) x)

/-- R72: a digest has 16 or 32 bytes, and is a function of the input and the table alone: any two transactions on the
same input, from any two states without a fault that have the same table, read the same digest. Under the tables
T_ID and T_INC the digests of "a" and "aa" differ. -/
def Obligations.DigestIsDeterministic : Prop :=
  (∀ (m : Mode) (x : List Byte) (s s' : State), s.err = false → s'.err = false → s.srom = s'.srom →
    ∃ t t', executeAll (hashWords m x) s = .next t ∧ executeAll (hashWords m x) s' = .next t' ∧
      readDigest m t = readDigest m t' ∧
      (m = .w128 → (readDigest m t).length = 16) ∧ (m = .w256 → (readDigest m t).length = 32)) ∧
  (∀ (m : Mode) (s : State), s.err = false → (∀ x, lookup s.srom x = x) ∨ (∀ x, lookup s.srom x = x + 1) →
    ∃ t t', executeAll (hashWords m [0x61]) s = .next t ∧ executeAll (hashWords m [0x61, 0x61]) s = .next t' ∧
      readDigest m t ≠ readDigest m t')

/-- R74: while DONE = 0 every digest byte the host reads is 0x00, and after a 128-bit invocation so are bytes 16 to 31.
In a state that meets the engine's invariant. -/
def Obligations.DigestBytesBlank : Prop :=
  ∀ (s : State) (a : ReadAddr), Inv s → a.toNat < 0x20 →
    s.done = false ∨ (s.mode = .w128 ∧ 0x10 ≤ a.toNat) → rdPort s a = 0x00

/-- R93, with R51, R73 and R74: between HSTART and HFINAL the host may write HBYTE, TLOOK and RDACC in any order; the
digest it then reads is that of the bytes the HBYTEs gave, in order. -/
def Obligations.ObservationKeepsDigest : Prop :=
  ∀ (m : Mode) (is : List Instr) (s : State), s.err = false →
    (∀ i ∈ is, (∀ m', i ≠ .hstart m') ∧ i ≠ .hfinal) →
    ∃ t u, executeAll (encode (.hstart m) :: (is.map encode ++ [encode .hfinal])) s = .next t ∧
      executeAll (hashWords m (inputBytes is)) s = .next u ∧
      t.done = true ∧ readDigest m t = readDigest m u ∧ t.acc = u.acc

/-- R73: RDACC. Its word; its effect and nothing else, whatever ACTIVE and MODE hold; the slots of the lane in the read
space; lanes 2 and 3 read 0 in the 128-bit mode and every lane after reset; after HFINAL the lanes keep their values;
RESERVED_FIELD when X[3:2] or IMM8 is not 0; ignored under a fault. -/
def Obligations.RdaccReadsLane : Prop :=
  (∀ l : Lane, encode (.rdacc l) = 0x5000 ||| (l.toBits.setWidth 16 <<< 8)) ∧
  (∀ (l : Lane) (s : State), s.err = false → exec (.rdacc l) s = .next { s with result := s.acc.get l }) ∧
  (∀ (l : Lane) (s t : State), s.err = false → exec (.rdacc l) s = .next t →
    ∀ k : Fin 8, rdPort t (BitVec.ofNat 6 (0x20 + k)) = slot (s.acc.get l) k) ∧
  (∀ (l : Lane) (s t : State), Inv s → s.err = false → s.mode = .w128 → l = .lowLaneUpper ∨ l = .highLaneUpper →
    exec (.rdacc l) s = .next t → t.result = 0) ∧
  (∀ (l : Lane) (s t : State), exec (.rdacc l) s.applyReset = .next t → t.result = 0) ∧
  (∀ (l : Lane) (s t u : State), s.err = false → s.active = true → exec .hfinal s = .next t →
    exec (.rdacc l) t = .next u → u.result = s.acc.get l) ∧
  (∀ (w : CmdWord) (s : State), s.err = false → w.extractLsb' 12 4 = 0x5 →
    w.extractLsb' 10 2 ≠ 0 ∨ w.extractLsb' 0 8 ≠ 0 →
    executeWord w s = .next { s with err := true, errcode := 0x02, errcmd := w }) ∧
  (∀ (l : Lane) (s : State), s.err = true → exec (.rdacc l) s = .next s)

/-- R51, R73, frame: TLOOK and RDACC change RESULT alone, and of the read space only addresses 0x20 to 0x27. -/
def Obligations.ObservationFrame : Prop :=
  ∀ (i : Instr) (s t : State), (∃ x, i = .tlook x) ∨ (∃ l, i = .rdacc l) → exec i s = .next t →
    t = { s with result := t.result } ∧
    ∀ a : ReadAddr, a.toNat < 0x20 ∨ 0x28 ≤ a.toNat → rdPort t a = rdPort s a

/-! ## Faults (60_exceptions.md) -/

/-- R75: ERRCODE records one of the four causes with its code; codes 0x05 to 0xFF are never written; and the whole
faulting word is recorded. -/
def Obligations.OnlyFourFaultCodes : Prop :=
  ∀ (w : CmdWord) (s t : State), s.err = false → executeWord w s = .next t → t.err = true →
    t.errcmd = w ∧
    ((t.errcode = 0x01 ∧ IllegalWord w) ∨ (t.errcode = 0x02 ∧ MalformedWord w) ∨
      (t.errcode = 0x03 ∧ (∃ b, w = encode (.hbyte b)) ∧ s.active = false) ∨
      (t.errcode = 0x04 ∧ w = encode .hfinal ∧ s.active = false))

/-- R76: HBYTE and HFINAL outside an open invocation fault with codes 0x03 and 0x04; HSTART, TLOOK and RDACC raise no
fault; no invocation is open after reset or after a completed HFINAL, and only HSTART opens one. -/
def Obligations.SequencingFaults : Prop :=
  (∀ (b : Byte) (s : State), s.err = false → s.active = false →
    exec (.hbyte b) s = .next { s with err := true, errcode := 0x03, errcmd := encode (.hbyte b) }) ∧
  (∀ s : State, s.err = false → s.active = false →
    exec .hfinal s = .next { s with err := true, errcode := 0x04, errcmd := encode .hfinal }) ∧
  (∀ (i : Instr) (s : State), s.err = false → (∃ m, i = .hstart m) ∨ (∃ x, i = .tlook x) ∨ (∃ l, i = .rdacc l) →
    ∃ t, exec i s = .next t ∧ t.err = false) ∧
  (∀ s : State, s.applyReset.active = false) ∧
  (∀ s t : State, s.err = false → exec .hfinal s = .next t → t.active = false) ∧
  (∀ (i : Instr) (s t : State), s.active = false → exec i s = .next t → t.active = true → ∃ m, i = .hstart m)

/-- R77: one command reports at most one fault, the first of the causes that applies. -/
def Obligations.FaultPriority : Prop :=
  (∀ (w : CmdWord) (s : State), s.err = false →
    ∃ t, executeWord w s = .next t ∧
      (if IllegalWord w then t.err = true ∧ t.errcode = 0x01
      else if MalformedWord w then t.err = true ∧ t.errcode = 0x02
      else if w.extractLsb' 12 4 = 0x2 ∧ s.active = false then t.err = true ∧ t.errcode = 0x03
      else if w.extractLsb' 12 4 = 0x3 ∧ s.active = false then t.err = true ∧ t.errcode = 0x04
      else t.err = false)) ∧
  (∀ s : State, s.err = false → s.active = false →
    executeWord 0x3001 s = .next { s with err := true, errcode := 0x02, errcmd := 0x3001 })

/-- R78: fault entry is precise. A command that raises a fault sets ERR, ERRCODE and ERRCMD and changes nothing else;
what earlier commands left stays readable; and of STATUS only bit 3 changes. -/
def Obligations.FaultEntryIsPrecise : Prop :=
  ∀ (w : CmdWord) (s t : State), s.err = false → executeWord w s = .next t → t.err = true →
    (∃ c : FaultCause, t = { s with err := true, errcode := c.code, errcmd := w }) ∧
    (∀ a : ReadAddr, a.toNat < 0x28 → rdPort t a = rdPort s a) ∧
    rdPort t 0x28 = rdPort s 0x28 ||| 0x08

/-- R79: while ERR = 1 every command word is ignored, legal or not, so the first fault is kept; host reads still work.
The byte read is seen in the list of bytes read, which is the model's choice (log entry 2). -/
def Obligations.IgnoredUnderFault : Prop :=
  (∀ (w : CmdWord) (s : State), s.err = true → executeWord w s = .next s) ∧
  (∀ (i : Instr) (s : State), s.err = true → exec i s = .next s) ∧
  (∀ (ws : List CmdWord) (s : State), s.err = true → executeAll ws s = .next s) ∧
  (∀ (a : ReadAddr) (s : State), s.err = true →
    ∃ t, takeAction (.read a) s = .next t ∧ t.reads = rdPort s a :: s.reads)

/-- R80: no action but reset clears ERR, ERRCODE or ERRCMD, and reset clears them; so faults do not nest. -/
def Obligations.OnlyResetClearsFault : Prop :=
  (∀ (a : HostAction) (s t : State), s.err = true → takeAction a s = .next t → a ≠ .reset →
    t.err = true ∧ t.errcode = s.errcode ∧ t.errcmd = s.errcmd) ∧
  (∀ s : State, ∃ t, takeAction .reset s = .next t ∧ t.err = false ∧ t.errcode = 0x00 ∧ t.errcmd = 0x0000)

/-- R81: a fault inside an open invocation leaves ACTIVE 1, DONE 0 and a blank digest, and no sequence of command words
changes that. -/
def Obligations.FaultedTransactionGivesNoDigest : Prop :=
  ∀ (w : CmdWord) (s t : State), Inv s → s.err = false → s.active = true →
    executeWord w s = .next t → t.err = true →
      t.active = true ∧ t.done = false ∧ t.digest = Digest.zero ∧
      ∀ ws : List CmdWord, executeAll ws t = .next t

/-- R88: the computation raises nothing. In an open invocation HBYTE of any byte and HFINAL raise no fault, under every
table; and a hash expansion of any input on an engine without a fault never faults at any of its commands. -/
def Obligations.ComputationNeverFaults : Prop :=
  (∀ (b : Byte) (s : State), s.err = false → s.active = true →
    ∃ t u, exec (.hbyte b) s = .next t ∧ t.err = false ∧ exec .hfinal s = .next u ∧ u.err = false) ∧
  (∀ (m : Mode) (x : List Byte) (s : State) (n : Nat), s.err = false →
    ∃ t, executeAll ((hashWords m x).take n) s = .next t ∧ t.err = false)

/-! ## Reset, hazards, termination (70_reset_and_hazards.md) -/

/-- R89, R90: what the reset input leaves in every element of state, from any state, and in STATUS; the table and the
variant stay. The machine's first state has the same values (that its host has nothing to do and has read nothing is the
model's choice, log entries 1 and 2, and is not stated here). -/
def Obligations.ResetInput : Prop :=
  (∀ s : State, ∃ t, takeAction .reset s = .next t ∧
    (∀ l, t.acc.get l = 0) ∧ t.mode = .w128 ∧ t.active = false ∧ t.done = false ∧ t.err = false ∧
    t.errcode = 0x00 ∧ t.errcmd = 0x0000 ∧ (∀ k : Fin 32, t.digest[k] = 0x00) ∧ t.result = 0 ∧
    (s.variant = .paper → statusByte t = 0x00) ∧ (s.variant = .rfc3074 → statusByte t = 0x10) ∧
    t.srom = s.srom ∧ t.variant = s.variant) ∧
  (∀ l, State.reset.acc.get l = 0) ∧ State.reset.mode = .w128 ∧ State.reset.active = false ∧
  State.reset.done = false ∧ State.reset.err = false ∧ State.reset.errcode = 0x00 ∧ State.reset.errcmd = 0x0000 ∧
  (∀ k : Fin 32, State.reset.digest[k] = 0x00) ∧ State.reset.result = 0

/-- R95: HBYTE, TLOOK and RDACC leave every digest byte the host reads unchanged, and while ERR = 1 no command word
changes any byte of the read space. -/
def Obligations.DigestReadsAreStable : Prop :=
  (∀ (i : Instr) (s t : State), (∃ b, i = .hbyte b) ∨ (∃ x, i = .tlook x) ∨ (∃ l, i = .rdacc l) →
    exec i s = .next t → ∀ a : ReadAddr, a.toNat < 0x20 → rdPort t a = rdPort s a) ∧
  (∀ (w : CmdWord) (s t : State), s.err = true → executeWord w s = .next t → ∀ a, rdPort t a = rdPort s a)

/-- R97: every command word, every instruction and every step completes with a next state, from every state; nothing
stops the engine; and so does every finite sequence of command words. -/
def Obligations.EveryStepCompletes : Prop :=
  (∀ s : State, ∃ t, step s = .next t) ∧
  (∀ (i : Instr) (s : State), ∃ t, exec i s = .next t) ∧
  (∀ (ws : List CmdWord) (s : State), ∃ t, executeAll ws s = .next t)

/-! ## The invariant -/

/-- The engine's invariant (R16 to R20, R49, R66, R74, R75, R76) holds right after reset. -/
def Obligations.InvariantAtReset : Prop := Inv State.reset

/-- Every step keeps the engine's invariant, from every state that meets it. -/
def Obligations.StepKeepsInvariant : Prop := ∀ s t : State, Inv s → step s = .next t → Inv t
end

