-- ==== Sys2Proof/Laws/Decode.lean ====
section
/-! SUPPORT. The small lemmas of the command word's fields and of the operand encodings. -/

namespace Sys2Proof

/-- A bit of a command word, from the field it lies in. -/
theorem Cmd16.getLsbD_toWord (f : Cmd16) (i : Nat) :
    f.toWord.getLsbD i =
      if i < 8 then f.imm8.getLsbD i else if i - 8 < 4 then f.x.getLsbD (i - 8) else f.op.getLsbD (i - 8 - 4) := by
  rw [Cmd16.toWord, BitVec.getLsbD_append, BitVec.getLsbD_append]

@[simp] theorem Cmd16.ofWord_toWord (f : Cmd16) : Cmd16.ofWord f.toWord = f := by
  ext i hi <;> rw [← BitVec.getLsbD_eq_getElem, ← BitVec.getLsbD_eq_getElem, Cmd16.ofWord]
  all_goals
    simp only [BitVec.getLsbD_extractLsb', Cmd16.getLsbD_toWord]
    grind

@[simp] theorem Cmd16.toWord_ofWord (w : CmdWord) : (Cmd16.ofWord w).toWord = w := by
  apply BitVec.eq_of_getLsbD_eq
  intro i hi
  simp only [Cmd16.getLsbD_toWord, Cmd16.ofWord, BitVec.getLsbD_extractLsb']
  grind

@[simp] theorem Mode.ofBit_toBit (m : Mode) : Mode.ofBit m.toBit = m := by cases m <;> rfl

@[simp] theorem Mode.toBit_ofBit (b : BitVec 1) : (Mode.ofBit b).toBit = b := by
  revert b; decide

@[simp] theorem Lane.ofBits_toBits (l : Lane) : Lane.ofBits l.toBits = l := by cases l <;> rfl

@[simp] theorem Lane.toBits_ofBits (b : BitVec 2) : (Lane.ofBits b).toBits = b := by
  revert b; decide

@[simp] theorem Opcode.ofCode_code (o : Opcode) : Opcode.ofCode o.code = some o := by cases o <;> rfl

/-- An OP field selects an opcode only as that opcode's code. -/
theorem Opcode.code_of_ofCode {op : BitVec 4} {o : Opcode} (h : Opcode.ofCode op = some o) : op = o.code := by
  revert op o
  decide

/-- The decoder answers an instruction exactly when the opcode is legal and no reserved-zero bit is set. -/
theorem decode_eq_ok {w : CmdWord} {i : Instr} :
    decode w = .ok i ↔ ∃ o, Opcode.ofCode (Cmd16.ofWord w).op = some o ∧
      o.reservedBits (Cmd16.ofWord w).x (Cmd16.ofWord w).imm8 = 0 ∧ o.instr (Cmd16.ofWord w) = i := by
  cases ho : Opcode.ofCode (Cmd16.ofWord w).op with
  | none => simp [decode, ho]
  | some o => by_cases h : o.reservedBits (Cmd16.ofWord w).x (Cmd16.ofWord w).imm8 = 0 <;> simp_all [decode]

/-- The decoder's two refusals. -/
theorem decode_eq_error {w : CmdWord} {e : DecodeError} :
    decode w = .error e ↔
      (Opcode.ofCode (Cmd16.ofWord w).op = none ∧ e = .illegalOpcode) ∨
      ∃ o, Opcode.ofCode (Cmd16.ofWord w).op = some o ∧
        o.reservedBits (Cmd16.ofWord w).x (Cmd16.ofWord w).imm8 ≠ 0 ∧ e = .reservedField := by
  cases ho : Opcode.ofCode (Cmd16.ofWord w).op with
  | none => cases e <;> simp [decode, ho]
  | some o =>
    by_cases h : o.reservedBits (Cmd16.ofWord w).x (Cmd16.ofWord w).imm8 = 0 <;> cases e <;> simp_all [decode]

end Sys2Proof
end

