-- ==== Sys2Proof/Laws/State.lean ====
section
/-! SUPPORT. What each update of the state does to each field: one lemma per field per update. -/

namespace Sys2Proof.Machine

/-! The four accumulators. -/

@[simp] theorem LaneFile.get_set (f : LaneFile) (l k : Lane) (v : Word) :
    (f.set l v).get k = if k = l then v else f.get k := by
  cases l <;> cases k <;> rfl

@[simp] theorem LaneFile.get_zero (l : Lane) : LaneFile.zero.get l = 0 := by cases l <;> rfl

/-- Two lane files that agree in every lane are equal. -/
theorem LaneFile.ext_get {f g : LaneFile} (h : ∀ l, f.get l = g.get l) : f = g :=
  LaneFile.ext (h .lowLane) (h .highLane) (h .lowLaneUpper) (h .highLaneUpper)


/-! setAcc -/

@[simp] theorem State.setAcc_acc (s : State) (l : Lane) (v : Word) : (s.setAcc l v).acc = s.acc.set l v := rfl
@[simp] theorem State.setAcc_srom (s : State) (l : Lane) (v : Word) : (s.setAcc l v).srom = s.srom := rfl
@[simp] theorem State.setAcc_variant (s : State) (l : Lane) (v : Word) : (s.setAcc l v).variant = s.variant := rfl
@[simp] theorem State.setAcc_mode (s : State) (l : Lane) (v : Word) : (s.setAcc l v).mode = s.mode := rfl
@[simp] theorem State.setAcc_active (s : State) (l : Lane) (v : Word) : (s.setAcc l v).active = s.active := rfl
@[simp] theorem State.setAcc_done (s : State) (l : Lane) (v : Word) : (s.setAcc l v).done = s.done := rfl
@[simp] theorem State.setAcc_err (s : State) (l : Lane) (v : Word) : (s.setAcc l v).err = s.err := rfl
@[simp] theorem State.setAcc_errcode (s : State) (l : Lane) (v : Word) : (s.setAcc l v).errcode = s.errcode := rfl
@[simp] theorem State.setAcc_errcmd (s : State) (l : Lane) (v : Word) : (s.setAcc l v).errcmd = s.errcmd := rfl
@[simp] theorem State.setAcc_digest (s : State) (l : Lane) (v : Word) : (s.setAcc l v).digest = s.digest := rfl
@[simp] theorem State.setAcc_result (s : State) (l : Lane) (v : Word) : (s.setAcc l v).result = s.result := rfl
@[simp] theorem State.setAcc_host (s : State) (l : Lane) (v : Word) : (s.setAcc l v).host = s.host := rfl
@[simp] theorem State.setAcc_reads (s : State) (l : Lane) (v : Word) : (s.setAcc l v).reads = s.reads := rfl

/-! clearAcc -/

@[simp] theorem State.clearAcc_acc (s : State) : (s.clearAcc).acc = LaneFile.zero := rfl
@[simp] theorem State.clearAcc_srom (s : State) : (s.clearAcc).srom = s.srom := rfl
@[simp] theorem State.clearAcc_variant (s : State) : (s.clearAcc).variant = s.variant := rfl
@[simp] theorem State.clearAcc_mode (s : State) : (s.clearAcc).mode = s.mode := rfl
@[simp] theorem State.clearAcc_active (s : State) : (s.clearAcc).active = s.active := rfl
@[simp] theorem State.clearAcc_done (s : State) : (s.clearAcc).done = s.done := rfl
@[simp] theorem State.clearAcc_err (s : State) : (s.clearAcc).err = s.err := rfl
@[simp] theorem State.clearAcc_errcode (s : State) : (s.clearAcc).errcode = s.errcode := rfl
@[simp] theorem State.clearAcc_errcmd (s : State) : (s.clearAcc).errcmd = s.errcmd := rfl
@[simp] theorem State.clearAcc_digest (s : State) : (s.clearAcc).digest = s.digest := rfl
@[simp] theorem State.clearAcc_result (s : State) : (s.clearAcc).result = s.result := rfl
@[simp] theorem State.clearAcc_host (s : State) : (s.clearAcc).host = s.host := rfl
@[simp] theorem State.clearAcc_reads (s : State) : (s.clearAcc).reads = s.reads := rfl

/-! setMode -/

@[simp] theorem State.setMode_acc (s : State) (m : Mode) : (s.setMode m).acc = s.acc := rfl
@[simp] theorem State.setMode_srom (s : State) (m : Mode) : (s.setMode m).srom = s.srom := rfl
@[simp] theorem State.setMode_variant (s : State) (m : Mode) : (s.setMode m).variant = s.variant := rfl
@[simp] theorem State.setMode_mode (s : State) (m : Mode) : (s.setMode m).mode = m := rfl
@[simp] theorem State.setMode_active (s : State) (m : Mode) : (s.setMode m).active = s.active := rfl
@[simp] theorem State.setMode_done (s : State) (m : Mode) : (s.setMode m).done = s.done := rfl
@[simp] theorem State.setMode_err (s : State) (m : Mode) : (s.setMode m).err = s.err := rfl
@[simp] theorem State.setMode_errcode (s : State) (m : Mode) : (s.setMode m).errcode = s.errcode := rfl
@[simp] theorem State.setMode_errcmd (s : State) (m : Mode) : (s.setMode m).errcmd = s.errcmd := rfl
@[simp] theorem State.setMode_digest (s : State) (m : Mode) : (s.setMode m).digest = s.digest := rfl
@[simp] theorem State.setMode_result (s : State) (m : Mode) : (s.setMode m).result = s.result := rfl
@[simp] theorem State.setMode_host (s : State) (m : Mode) : (s.setMode m).host = s.host := rfl
@[simp] theorem State.setMode_reads (s : State) (m : Mode) : (s.setMode m).reads = s.reads := rfl

/-! setActive -/

@[simp] theorem State.setActive_acc (s : State) (b : Bool) : (s.setActive b).acc = s.acc := rfl
@[simp] theorem State.setActive_srom (s : State) (b : Bool) : (s.setActive b).srom = s.srom := rfl
@[simp] theorem State.setActive_variant (s : State) (b : Bool) : (s.setActive b).variant = s.variant := rfl
@[simp] theorem State.setActive_mode (s : State) (b : Bool) : (s.setActive b).mode = s.mode := rfl
@[simp] theorem State.setActive_active (s : State) (b : Bool) : (s.setActive b).active = b := rfl
@[simp] theorem State.setActive_done (s : State) (b : Bool) : (s.setActive b).done = s.done := rfl
@[simp] theorem State.setActive_err (s : State) (b : Bool) : (s.setActive b).err = s.err := rfl
@[simp] theorem State.setActive_errcode (s : State) (b : Bool) : (s.setActive b).errcode = s.errcode := rfl
@[simp] theorem State.setActive_errcmd (s : State) (b : Bool) : (s.setActive b).errcmd = s.errcmd := rfl
@[simp] theorem State.setActive_digest (s : State) (b : Bool) : (s.setActive b).digest = s.digest := rfl
@[simp] theorem State.setActive_result (s : State) (b : Bool) : (s.setActive b).result = s.result := rfl
@[simp] theorem State.setActive_host (s : State) (b : Bool) : (s.setActive b).host = s.host := rfl
@[simp] theorem State.setActive_reads (s : State) (b : Bool) : (s.setActive b).reads = s.reads := rfl

/-! setDone -/

@[simp] theorem State.setDone_acc (s : State) (b : Bool) : (s.setDone b).acc = s.acc := rfl
@[simp] theorem State.setDone_srom (s : State) (b : Bool) : (s.setDone b).srom = s.srom := rfl
@[simp] theorem State.setDone_variant (s : State) (b : Bool) : (s.setDone b).variant = s.variant := rfl
@[simp] theorem State.setDone_mode (s : State) (b : Bool) : (s.setDone b).mode = s.mode := rfl
@[simp] theorem State.setDone_active (s : State) (b : Bool) : (s.setDone b).active = s.active := rfl
@[simp] theorem State.setDone_done (s : State) (b : Bool) : (s.setDone b).done = b := rfl
@[simp] theorem State.setDone_err (s : State) (b : Bool) : (s.setDone b).err = s.err := rfl
@[simp] theorem State.setDone_errcode (s : State) (b : Bool) : (s.setDone b).errcode = s.errcode := rfl
@[simp] theorem State.setDone_errcmd (s : State) (b : Bool) : (s.setDone b).errcmd = s.errcmd := rfl
@[simp] theorem State.setDone_digest (s : State) (b : Bool) : (s.setDone b).digest = s.digest := rfl
@[simp] theorem State.setDone_result (s : State) (b : Bool) : (s.setDone b).result = s.result := rfl
@[simp] theorem State.setDone_host (s : State) (b : Bool) : (s.setDone b).host = s.host := rfl
@[simp] theorem State.setDone_reads (s : State) (b : Bool) : (s.setDone b).reads = s.reads := rfl

/-! setDigest -/

@[simp] theorem State.setDigest_acc (s : State) (d : Digest) : (s.setDigest d).acc = s.acc := rfl
@[simp] theorem State.setDigest_srom (s : State) (d : Digest) : (s.setDigest d).srom = s.srom := rfl
@[simp] theorem State.setDigest_variant (s : State) (d : Digest) : (s.setDigest d).variant = s.variant := rfl
@[simp] theorem State.setDigest_mode (s : State) (d : Digest) : (s.setDigest d).mode = s.mode := rfl
@[simp] theorem State.setDigest_active (s : State) (d : Digest) : (s.setDigest d).active = s.active := rfl
@[simp] theorem State.setDigest_done (s : State) (d : Digest) : (s.setDigest d).done = s.done := rfl
@[simp] theorem State.setDigest_err (s : State) (d : Digest) : (s.setDigest d).err = s.err := rfl
@[simp] theorem State.setDigest_errcode (s : State) (d : Digest) : (s.setDigest d).errcode = s.errcode := rfl
@[simp] theorem State.setDigest_errcmd (s : State) (d : Digest) : (s.setDigest d).errcmd = s.errcmd := rfl
@[simp] theorem State.setDigest_digest (s : State) (d : Digest) : (s.setDigest d).digest = d := rfl
@[simp] theorem State.setDigest_result (s : State) (d : Digest) : (s.setDigest d).result = s.result := rfl
@[simp] theorem State.setDigest_host (s : State) (d : Digest) : (s.setDigest d).host = s.host := rfl
@[simp] theorem State.setDigest_reads (s : State) (d : Digest) : (s.setDigest d).reads = s.reads := rfl

/-! setResult -/

@[simp] theorem State.setResult_acc (s : State) (v : Word) : (s.setResult v).acc = s.acc := rfl
@[simp] theorem State.setResult_srom (s : State) (v : Word) : (s.setResult v).srom = s.srom := rfl
@[simp] theorem State.setResult_variant (s : State) (v : Word) : (s.setResult v).variant = s.variant := rfl
@[simp] theorem State.setResult_mode (s : State) (v : Word) : (s.setResult v).mode = s.mode := rfl
@[simp] theorem State.setResult_active (s : State) (v : Word) : (s.setResult v).active = s.active := rfl
@[simp] theorem State.setResult_done (s : State) (v : Word) : (s.setResult v).done = s.done := rfl
@[simp] theorem State.setResult_err (s : State) (v : Word) : (s.setResult v).err = s.err := rfl
@[simp] theorem State.setResult_errcode (s : State) (v : Word) : (s.setResult v).errcode = s.errcode := rfl
@[simp] theorem State.setResult_errcmd (s : State) (v : Word) : (s.setResult v).errcmd = s.errcmd := rfl
@[simp] theorem State.setResult_digest (s : State) (v : Word) : (s.setResult v).digest = s.digest := rfl
@[simp] theorem State.setResult_result (s : State) (v : Word) : (s.setResult v).result = v := rfl
@[simp] theorem State.setResult_host (s : State) (v : Word) : (s.setResult v).host = s.host := rfl
@[simp] theorem State.setResult_reads (s : State) (v : Word) : (s.setResult v).reads = s.reads := rfl

/-! setHost -/

@[simp] theorem State.setHost_acc (s : State) (h : List HostAction) : (s.setHost h).acc = s.acc := rfl
@[simp] theorem State.setHost_srom (s : State) (h : List HostAction) : (s.setHost h).srom = s.srom := rfl
@[simp] theorem State.setHost_variant (s : State) (h : List HostAction) : (s.setHost h).variant = s.variant := rfl
@[simp] theorem State.setHost_mode (s : State) (h : List HostAction) : (s.setHost h).mode = s.mode := rfl
@[simp] theorem State.setHost_active (s : State) (h : List HostAction) : (s.setHost h).active = s.active := rfl
@[simp] theorem State.setHost_done (s : State) (h : List HostAction) : (s.setHost h).done = s.done := rfl
@[simp] theorem State.setHost_err (s : State) (h : List HostAction) : (s.setHost h).err = s.err := rfl
@[simp] theorem State.setHost_errcode (s : State) (h : List HostAction) : (s.setHost h).errcode = s.errcode := rfl
@[simp] theorem State.setHost_errcmd (s : State) (h : List HostAction) : (s.setHost h).errcmd = s.errcmd := rfl
@[simp] theorem State.setHost_digest (s : State) (h : List HostAction) : (s.setHost h).digest = s.digest := rfl
@[simp] theorem State.setHost_result (s : State) (h : List HostAction) : (s.setHost h).result = s.result := rfl
@[simp] theorem State.setHost_host (s : State) (h : List HostAction) : (s.setHost h).host = h := rfl
@[simp] theorem State.setHost_reads (s : State) (h : List HostAction) : (s.setHost h).reads = s.reads := rfl

/-! pushRead -/

@[simp] theorem State.pushRead_acc (s : State) (b : Byte) : (s.pushRead b).acc = s.acc := rfl
@[simp] theorem State.pushRead_srom (s : State) (b : Byte) : (s.pushRead b).srom = s.srom := rfl
@[simp] theorem State.pushRead_variant (s : State) (b : Byte) : (s.pushRead b).variant = s.variant := rfl
@[simp] theorem State.pushRead_mode (s : State) (b : Byte) : (s.pushRead b).mode = s.mode := rfl
@[simp] theorem State.pushRead_active (s : State) (b : Byte) : (s.pushRead b).active = s.active := rfl
@[simp] theorem State.pushRead_done (s : State) (b : Byte) : (s.pushRead b).done = s.done := rfl
@[simp] theorem State.pushRead_err (s : State) (b : Byte) : (s.pushRead b).err = s.err := rfl
@[simp] theorem State.pushRead_errcode (s : State) (b : Byte) : (s.pushRead b).errcode = s.errcode := rfl
@[simp] theorem State.pushRead_errcmd (s : State) (b : Byte) : (s.pushRead b).errcmd = s.errcmd := rfl
@[simp] theorem State.pushRead_digest (s : State) (b : Byte) : (s.pushRead b).digest = s.digest := rfl
@[simp] theorem State.pushRead_result (s : State) (b : Byte) : (s.pushRead b).result = s.result := rfl
@[simp] theorem State.pushRead_host (s : State) (b : Byte) : (s.pushRead b).host = s.host := rfl
@[simp] theorem State.pushRead_reads (s : State) (b : Byte) : (s.pushRead b).reads = b :: s.reads := rfl

/-! raiseFault -/

@[simp] theorem State.raiseFault_acc (s : State) (c : FaultCause) (w : CmdWord) : (s.raiseFault c w).acc = s.acc := rfl
@[simp] theorem State.raiseFault_srom (s : State) (c : FaultCause) (w : CmdWord) : (s.raiseFault c w).srom = s.srom := rfl
@[simp] theorem State.raiseFault_variant (s : State) (c : FaultCause) (w : CmdWord) : (s.raiseFault c w).variant = s.variant := rfl
@[simp] theorem State.raiseFault_mode (s : State) (c : FaultCause) (w : CmdWord) : (s.raiseFault c w).mode = s.mode := rfl
@[simp] theorem State.raiseFault_active (s : State) (c : FaultCause) (w : CmdWord) : (s.raiseFault c w).active = s.active := rfl
@[simp] theorem State.raiseFault_done (s : State) (c : FaultCause) (w : CmdWord) : (s.raiseFault c w).done = s.done := rfl
@[simp] theorem State.raiseFault_err (s : State) (c : FaultCause) (w : CmdWord) : (s.raiseFault c w).err = true := rfl
@[simp] theorem State.raiseFault_errcode (s : State) (c : FaultCause) (w : CmdWord) : (s.raiseFault c w).errcode = c.code := rfl
@[simp] theorem State.raiseFault_errcmd (s : State) (c : FaultCause) (w : CmdWord) : (s.raiseFault c w).errcmd = w := rfl
@[simp] theorem State.raiseFault_digest (s : State) (c : FaultCause) (w : CmdWord) : (s.raiseFault c w).digest = s.digest := rfl
@[simp] theorem State.raiseFault_result (s : State) (c : FaultCause) (w : CmdWord) : (s.raiseFault c w).result = s.result := rfl
@[simp] theorem State.raiseFault_host (s : State) (c : FaultCause) (w : CmdWord) : (s.raiseFault c w).host = s.host := rfl
@[simp] theorem State.raiseFault_reads (s : State) (c : FaultCause) (w : CmdWord) : (s.raiseFault c w).reads = s.reads := rfl

/-! applyReset -/

@[simp] theorem State.applyReset_acc (s : State) : (s.applyReset).acc = LaneFile.zero := rfl
@[simp] theorem State.applyReset_srom (s : State) : (s.applyReset).srom = s.srom := rfl
@[simp] theorem State.applyReset_variant (s : State) : (s.applyReset).variant = s.variant := rfl
@[simp] theorem State.applyReset_mode (s : State) : (s.applyReset).mode = .w128 := rfl
@[simp] theorem State.applyReset_active (s : State) : (s.applyReset).active = false := rfl
@[simp] theorem State.applyReset_done (s : State) : (s.applyReset).done = false := rfl
@[simp] theorem State.applyReset_err (s : State) : (s.applyReset).err = false := rfl
@[simp] theorem State.applyReset_errcode (s : State) : (s.applyReset).errcode = 0x00 := rfl
@[simp] theorem State.applyReset_errcmd (s : State) : (s.applyReset).errcmd = 0x0000 := rfl
@[simp] theorem State.applyReset_digest (s : State) : (s.applyReset).digest = Digest.zero := rfl
@[simp] theorem State.applyReset_result (s : State) : (s.applyReset).result = 0 := rfl
@[simp] theorem State.applyReset_host (s : State) : (s.applyReset).host = s.host := rfl
@[simp] theorem State.applyReset_reads (s : State) : (s.applyReset).reads = s.reads := rfl

/-! withNextWord -/

@[simp] theorem State.withNextWord_acc (s : State) (w : CmdWord) : (s.withNextWord w).acc = s.acc := rfl
@[simp] theorem State.withNextWord_srom (s : State) (w : CmdWord) : (s.withNextWord w).srom = s.srom := rfl
@[simp] theorem State.withNextWord_variant (s : State) (w : CmdWord) : (s.withNextWord w).variant = s.variant := rfl
@[simp] theorem State.withNextWord_mode (s : State) (w : CmdWord) : (s.withNextWord w).mode = s.mode := rfl
@[simp] theorem State.withNextWord_active (s : State) (w : CmdWord) : (s.withNextWord w).active = s.active := rfl
@[simp] theorem State.withNextWord_done (s : State) (w : CmdWord) : (s.withNextWord w).done = s.done := rfl
@[simp] theorem State.withNextWord_err (s : State) (w : CmdWord) : (s.withNextWord w).err = s.err := rfl
@[simp] theorem State.withNextWord_errcode (s : State) (w : CmdWord) : (s.withNextWord w).errcode = s.errcode := rfl
@[simp] theorem State.withNextWord_errcmd (s : State) (w : CmdWord) : (s.withNextWord w).errcmd = s.errcmd := rfl
@[simp] theorem State.withNextWord_digest (s : State) (w : CmdWord) : (s.withNextWord w).digest = s.digest := rfl
@[simp] theorem State.withNextWord_result (s : State) (w : CmdWord) : (s.withNextWord w).result = s.result := rfl
@[simp] theorem State.withNextWord_host (s : State) (w : CmdWord) : (s.withNextWord w).host = .write w :: s.host := rfl
@[simp] theorem State.withNextWord_reads (s : State) (w : CmdWord) : (s.withNextWord w).reads = s.reads := rfl

/-! The active table follows SROM. -/

theorem State.subst_congr {s t : State} (h : t.srom = s.srom) : t.subst = s.subst := by
  funext x
  rw [State.subst, State.subst, h]

@[simp] theorem State.setAcc_subst (s : State) (l : Lane) (v : Word) : (s.setAcc l v).subst = s.subst := rfl
@[simp] theorem State.clearAcc_subst (s : State) : (s.clearAcc).subst = s.subst := rfl
@[simp] theorem State.setMode_subst (s : State) (m : Mode) : (s.setMode m).subst = s.subst := rfl
@[simp] theorem State.setActive_subst (s : State) (b : Bool) : (s.setActive b).subst = s.subst := rfl
@[simp] theorem State.setDone_subst (s : State) (b : Bool) : (s.setDone b).subst = s.subst := rfl
@[simp] theorem State.setDigest_subst (s : State) (d : Digest) : (s.setDigest d).subst = s.subst := rfl
@[simp] theorem State.setResult_subst (s : State) (v : Word) : (s.setResult v).subst = s.subst := rfl
@[simp] theorem State.setHost_subst (s : State) (h : List HostAction) : (s.setHost h).subst = s.subst := rfl
@[simp] theorem State.pushRead_subst (s : State) (b : Byte) : (s.pushRead b).subst = s.subst := rfl
@[simp] theorem State.raiseFault_subst (s : State) (c : FaultCause) (w : CmdWord) : (s.raiseFault c w).subst = s.subst := rfl
@[simp] theorem State.applyReset_subst (s : State) : (s.applyReset).subst = s.subst := rfl
@[simp] theorem State.withNextWord_subst (s : State) (w : CmdWord) : (s.withNextWord w).subst = s.subst := rfl

end Sys2Proof.Machine
end

