-- ==== Sys2Proof/Laws/Ops.lean ====
section
/-! SUPPORT. For each shared operation and each meaning, everything it can do, said once. -/

namespace Sys2Proof.Machine

/-! Ignoring commands under a fault (R79), and the check of an open invocation (R76). -/

@[simp] theorem unlessErr_of_err {s : State} (h : s.err = true) (act : State → State) :
    unlessErr s act = .next s := by simp [unlessErr, h]

@[simp] theorem unlessErr_of_clear {s : State} (h : s.err = false) (act : State → State) :
    unlessErr s act = .next (act s) := by simp [unlessErr, h]

/-- The operation always answers a next state: the same one under a fault, and otherwise the action's. -/
theorem unlessErr_eq_next {s t : State} {act : State → State} :
    unlessErr s act = .next t ↔ (s.err = true ∧ t = s) ∨ (s.err = false ∧ t = act s) := by
  cases h : s.err <;> simp [h, eq_comm]

@[simp] theorem whenActive_of_active {s : State} (h : s.active = true) (c : FaultCause) (w : CmdWord)
    (act : State → State) : whenActive c w act s = act s := by simp [whenActive, h]

@[simp] theorem whenActive_of_idle {s : State} (h : s.active = false) (c : FaultCause) (w : CmdWord)
    (act : State → State) : whenActive c w act s = s.raiseFault c w := by simp [whenActive, h]

/-! The lane step of every active lane (R60). -/

@[simp] theorem stepLane_get (b : Byte) (s : State) (l k : Lane) :
    (stepLane b s l).acc.get k =
      if k = l then laneStep s.subst (s.acc.get l) b (mask l) else s.acc.get k := by
  simp [stepLane]

/-- A lane step writes one accumulator and nothing else. -/
theorem stepLane_eq (b : Byte) (s : State) (l : Lane) :
    stepLane b s l = { s with acc := (stepLane b s l).acc } := rfl

/-- Lane steps over any list of lanes write accumulators and nothing else. -/
theorem foldl_stepLane_eq (b : Byte) (ls : List Lane) (s : State) :
    ls.foldl (stepLane b) s = { s with acc := (ls.foldl (stepLane b) s).acc } := by
  induction ls generalizing s with
  | nil => rfl
  | cons l ls ih => rw [List.foldl_cons, ih]; rfl

/-- HBYTE's fold writes accumulators and nothing else. -/
theorem foldByte_eq (b : Byte) (s : State) : foldByte b s = { s with acc := (foldByte b s).acc } :=
  foldl_stepLane_eq b (activeLanes s.mode) s

/-- HBYTE's fold, lane by lane. -/
theorem foldByte_get (b : Byte) (s : State) (l : Lane) :
    (foldByte b s).acc.get l =
      if l ∈ activeLanes s.mode then laneStep s.subst (s.acc.get l) b (mask l) else s.acc.get l := by
  unfold foldByte
  cases s.mode <;> cases l <;> rfl

@[simp] theorem foldByte_srom (b : Byte) (s : State) : (foldByte b s).srom = s.srom := by rw [foldByte_eq]
@[simp] theorem foldByte_variant (b : Byte) (s : State) : (foldByte b s).variant = s.variant := by rw [foldByte_eq]
@[simp] theorem foldByte_mode (b : Byte) (s : State) : (foldByte b s).mode = s.mode := by rw [foldByte_eq]
@[simp] theorem foldByte_active (b : Byte) (s : State) : (foldByte b s).active = s.active := by rw [foldByte_eq]
@[simp] theorem foldByte_done (b : Byte) (s : State) : (foldByte b s).done = s.done := by rw [foldByte_eq]
@[simp] theorem foldByte_err (b : Byte) (s : State) : (foldByte b s).err = s.err := by rw [foldByte_eq]
@[simp] theorem foldByte_errcode (b : Byte) (s : State) : (foldByte b s).errcode = s.errcode := by rw [foldByte_eq]
@[simp] theorem foldByte_errcmd (b : Byte) (s : State) : (foldByte b s).errcmd = s.errcmd := by rw [foldByte_eq]
@[simp] theorem foldByte_digest (b : Byte) (s : State) : (foldByte b s).digest = s.digest := by rw [foldByte_eq]
@[simp] theorem foldByte_result (b : Byte) (s : State) : (foldByte b s).result = s.result := by rw [foldByte_eq]
@[simp] theorem foldByte_host (b : Byte) (s : State) : (foldByte b s).host = s.host := by rw [foldByte_eq]
@[simp] theorem foldByte_reads (b : Byte) (s : State) : (foldByte b s).reads = s.reads := by rw [foldByte_eq]
@[simp] theorem foldByte_subst (b : Byte) (s : State) : (foldByte b s).subst = s.subst :=
  State.subst_congr (foldByte_srom b s)

/-! Closing an invocation (R66). -/

/-- HFINAL's action writes DIGEST, ACTIVE and DONE and nothing else. -/
theorem closeInvocation_eq (s : State) :
    closeInvocation s = { s with digest := finalDigest s.mode s.acc, active := false, done := true } := rfl

/-! The two ways through the command port (R44). -/

theorem executeWord_of_ok {w : CmdWord} {i : Instr} (h : decode w = .ok i) (s : State) :
    executeWord w s = exec i s := by simp [executeWord, h]

theorem executeWord_of_error {w : CmdWord} {e : DecodeError} (h : decode w = .error e) (s : State) :
    executeWord w s = unlessErr s fun s => s.raiseFault (FaultCause.ofDecodeError e) w := by
  simp [executeWord, h]

/-- Inversion of Execute(w): what a word can do, in every state. -/
theorem executeWord_cases {w : CmdWord} {s t : State} (h : executeWord w s = .next t) :
    (s.err = true ∧ t = s) ∨
    (∃ e, s.err = false ∧ decode w = .error e ∧ t = s.raiseFault (FaultCause.ofDecodeError e) w) ∨
    (∃ m, s.err = false ∧ decode w = .ok (.hstart m) ∧
      t = ((((s.clearAcc).setMode m).setActive true).setDone false).setDigest Digest.zero) ∨
    (∃ b, s.err = false ∧ decode w = .ok (.hbyte b) ∧
      t = whenActive .noInvocationByte (encode (.hbyte b)) (foldByte b) s) ∨
    (s.err = false ∧ decode w = .ok .hfinal ∧
      t = whenActive .noInvocationFinal (encode .hfinal) closeInvocation s) ∨
    (∃ i, s.err = false ∧ decode w = .ok (.tlook i) ∧ t = s.setResult (zext64 (s.subst i))) ∨
    (∃ l, s.err = false ∧ decode w = .ok (.rdacc l) ∧ t = s.setResult (s.acc.get l)) := by
  cases hd : decode w with
  | error e =>
    rw [executeWord_of_error hd, unlessErr_eq_next] at h
    rcases h with h | ⟨he, rfl⟩
    · exact .inl h
    · exact .inr (.inl ⟨e, he, rfl, rfl⟩)
  | ok i =>
    rw [executeWord_of_ok hd] at h
    cases i <;> simp only [exec, execHstart, execHbyte, execHfinal, execTlook, execRdacc,
      unlessErr_eq_next] at h <;> rcases h with h | ⟨he, rfl⟩
    all_goals first | exact .inl h | simp [he]

end Sys2Proof.Machine
end

