-- ==== Sys2Proof/Laws/Slots.lean ====
section
/-! SUPPORT. Byte slots of words (R6), table lookups (R48), and the table a permutation makes (R49). -/

namespace Sys2Proof.Machine

/-- Two words with the same slots are equal (R6). -/
theorem word_ext_slot {v w : Word} (h : ∀ i, slot v i = slot w i) : v = w := by
  ext k hk
  have hi := congrArg (fun b : Byte => b.getLsbD (k % 8)) (h ⟨k / 8, by omega⟩)
  simp only [slot, BitVec.getLsbD_extractLsb'] at hi
  have h8 : k % 8 < 8 := Nat.mod_lt _ (by omega)
  rw [show 8 * (k / 8) + k % 8 = k by omega] at hi
  simpa [h8, BitVec.getLsbD_eq_getElem hk] using hi

@[simp] theorem slot_wordOfSlots (f : Fin 8 → Byte) (i : Fin 8) : slot (wordOfSlots f) i = f i := by
  fin_cases i <;> apply BitVec.eq_of_getLsbD_eq <;> intro k hk
  all_goals
    simp only [slot, wordOfSlots, BitVec.getLsbD_extractLsb', BitVec.getLsbD_append]
    grind

@[simp] theorem slot_xor (v w : Word) (i : Fin 8) : slot (v ^^^ w) i = slot v i ^^^ slot w i := by
  ext k hk
  simp [slot]

@[simp] theorem slot_zero (i : Fin 8) : slot 0 i = 0 := by
  ext k hk
  simp [slot]

@[simp] theorem lookup_ofFn (f : Byte → Byte) (x : Byte) : lookup (SubstTable.ofFn f) x = f x := by
  simp [lookup, SubstTable.ofFn]

/-- The table of a permutation is a permutation (R3). -/
theorem isPermutation_ofFn (p : Equiv.Perm Byte) : IsPermutation (SubstTable.ofFn p) := fun y =>
  ⟨p.symm y, by simp, fun x hx => by simp [← hx]⟩

end Sys2Proof.Machine
end

