-- ==== Sys2Proof/Laws/Digest.lean ====
section
/-! SUPPORT. The digest as a list of slots (R63 to R66), and running the machine one step (Host.Core.run). -/

namespace Sys2Proof.Machine

/-- Ser(w) as a list of its slots (R63). -/
theorem ser_toList (w : Word) : (ser w).toList = List.ofFn (slot w) := by
  simp [ser, List.ofFn_succ]

/-- Final128 as a list (R64). -/
theorem final128_toList (f : LaneFile) :
    (final128 f).toList = List.ofFn (slot f.lowLane) ++ List.ofFn (slot f.highLane) := by
  rw [← ser_toList, ← ser_toList]
  exact Vector.toList_append

/-- Final256 as a list (R65). -/
theorem final256_toList (f : LaneFile) :
    (final256 f).toList =
      List.ofFn (slot f.highLaneUpper) ++ List.ofFn (slot f.lowLaneUpper) ++ List.ofFn (slot f.lowLane) ++
        List.ofFn (slot f.highLane) := by
  rw [← ser_toList, ← ser_toList, ← ser_toList, ← ser_toList, ← Vector.toList_append, ← Vector.toList_append]
  exact Vector.toList_append

/-- What HFINAL writes in the 128-bit mode, as a list (R66). -/
theorem finalDigest_w128_toList (f : LaneFile) :
    (finalDigest .w128 f).toList = (final128 f).toList ++ List.replicate 16 0 := by
  rw [← Vector.toList_replicate]
  exact Vector.toList_append

/-- What HFINAL writes in the 256-bit mode (R66). -/
@[simp] theorem finalDigest_w256 (f : LaneFile) : finalDigest .w256 f = final256 f := rfl

/-- A run of no steps. -/
theorem core_run_zero (s : State) : Sys2Proof.core.run 0 s = .next s := rfl

/-- A run whose first step answers a next state goes on from there. -/
theorem core_run_succ {n : Nat} {s t : State} (h : step s = .next t) :
    Sys2Proof.core.run (n + 1) s = Sys2Proof.core.run n t := by
  simp only [Host.Core.run, core, h]

end Sys2Proof.Machine
end

