-- ==== Sys2Proof/Laws/PerInstr.lean ====
section
/-! SUPPORT. Per instruction: the word it encodes to has a legal opcode and no reserved-zero bit set (R41, R42). -/

namespace Sys2Proof.Laws.LegalWord

/-- The instruction's word has the opcode `o` of some command, and none of its reserved-zero bits is 1 (R42). -/
def Statement (i : Instr) : Prop :=
  ∃ o, Opcode.ofCode (Cmd16.ofWord (encode i)).op = some o ∧
    o.reservedBits (Cmd16.ofWord (encode i)).x (Cmd16.ofWord (encode i)).imm8 = 0

theorem hstart (w : Mode) : Statement (.hstart w) :=
  ⟨.hstart, by cases w <;> decide⟩

theorem hbyte (b : Byte) : Statement (.hbyte b) :=
  ⟨.hbyte, by simp [encode, Instr.fields, Opcode.ofCode, Opcode.reservedBits]⟩

theorem hfinal : Statement .hfinal := ⟨.hfinal, by decide⟩

theorem tlook (i : Byte) : Statement (.tlook i) :=
  ⟨.tlook, by simp [encode, Instr.fields, Opcode.ofCode, Opcode.reservedBits]⟩

theorem rdacc (lane : Lane) : Statement (.rdacc lane) :=
  ⟨.rdacc, by cases lane <;> decide⟩

end Sys2Proof.Laws.LegalWord
end

