-- ==== Sys2Proof/Tests/Slice0.lean ====
section
/-! SUPPORT. The model's own tests. Expected values come from the spec's tables, rules and vectors (V-…, P… of
spec/95_test_vectors.md, whose test tables T_ID and T_INC stand in 40_substitution.md section 1). -/

namespace Sys2Proof.Tests

open Sys2Proof.Machine

/-! ## Small states -/

/-- T_ID(x) = x. -/
def tId : SubstTable := SubstTable.ofFn fun x => x

/-- T_INC(x) = (x + 1) mod 256. -/
def tInc : SubstTable := SubstTable.ofFn fun x => x + 1

/-- Right after reset, in a paper build with table `t`. -/
def idle (t : SubstTable) : State := { State.reset with srom := t, variant := .paper }

/-- An open invocation with the accumulators of V-D12: what `hstart` and `hbyte 0x61` leave under T_INC. -/
def opened (m : Mode) : State :=
  { idle tInc with
    mode := m
    active := true
    acc :=
      { lowLane := 0x6768656663646162
        highLane := 0x6F706D6E6B6C696A
        lowLaneUpper := if m = .w256 then 0x7778757673747172 else 0
        highLaneUpper := if m = .w256 then 0x7F807D7E7B7C797A else 0 } }

/-- A fault inside an open 128-bit invocation, as P6 leaves it. -/
def faulted : State := { opened .w128 with err := true, errcode := 0x02, errcmd := 0x3001 }

/-- The state a command leaves. -/
def after (i : Instr) (s : State) : State :=
  match exec i s with
  | .next t => t
  | .fault _ => s
  | .refused _ => s

/-- The state a command word leaves. -/
def afterWord (w : CmdWord) (s : State) : State :=
  match executeWord w s with
  | .next t => t
  | .fault _ => s
  | .refused _ => s

/-- The state one step leaves. -/
def afterStep (s : State) : State :=
  match step s with
  | .next t => t
  | .fault _ => s
  | .refused _ => s

/-! ## Encoding: every constructor, by a word written out from R41's patterns -/

theorem test_decode_hstart : decode 0b0001000000000000 = .ok (.hstart .w128) ∧
    decode 0b0001000100000000 = .ok (.hstart .w256) := by decide

theorem test_decode_hbyte : decode 0b0010000010110001 = .ok (.hbyte 0xB1) := by decide

theorem test_decode_hfinal : decode 0b0011000000000000 = .ok .hfinal := by decide

theorem test_decode_tlook : decode 0b0100000010000001 = .ok (.tlook 0x81) := by decide

theorem test_decode_rdacc : decode 0b0101001000000000 = .ok (.rdacc .lowLaneUpper) ∧
    decode 0b0101000100000000 = .ok (.rdacc .highLane) := by decide

/-- R43: the words the spec names as illegal (V-E1, V-E2, V-E3), and the ends of both ranges. -/
theorem test_illegal_words : ([0x0000, 0x0FFF, 0x6000, 0xF123, 0xFFFF] : List CmdWord).map decode =
    List.replicate 5 (.error .illegalOpcode) := by decide

/-- R42: one word for each reserved-zero bit group of each command (V-E4, V-E5, V-E6, V-E9, V-E10, V-T5). -/
theorem test_malformed_words : ([0x1200, 0x1800, 0x1001, 0x1180, 0x2100, 0x2800, 0x3001, 0x3100, 0x4161, 0x4800, 0x5400,
    0x5800, 0x5001] : List CmdWord).map decode = List.replicate 13 (.error .reservedField) := by decide

/-- The rows of spec/opcode_table.json: match, mask, and a command of the row. -/
def tableRows : List (CmdWord × CmdWord × Instr) :=
  [(0x1000, 0xFEFF, .hstart .w128), (0x2000, 0xFF00, .hbyte 0), (0x3000, 0xFFFF, .hfinal), (0x4000, 0xFF00, .tlook 0),
    (0x5000, 0xFCFF, .rdacc .lowLane)]

/-- A row's match word decodes to the row's command. -/
theorem test_table_rows : ∀ r ∈ tableRows, decode r.1 = .ok r.2.2 ∧ encode r.2.2 &&& r.2.1 = r.1 := by decide

/-- No word matches two rows of the table: two rows differ in a bit that both masks hold. -/
theorem test_table_rows_disjoint :
    tableRows.Pairwise fun r q => (r.1 ^^^ q.1) &&& (r.2.1 &&& q.2.1) ≠ 0 := by decide

theorem test_decodeTableWord : decodeTableWord 16 0x1100 = some (.hstart .w256) ∧ decodeTableWord 16 0x1200 = none ∧
    decodeTableWord 16 0x52061 = some (.hbyte 0x61) ∧ decodeTableWord 20 0x52061 = none := by decide

/-! ## Well-formedness: an ill-formed line for each check -/

theorem test_illformed_hstart : (AsmLine.hstart 129).wellFormed = false := by decide
theorem test_illformed_hbyte : (AsmLine.hbyte 0x100).wellFormed = false := by decide
theorem test_illformed_tlook : (AsmLine.tlook 0x100).wellFormed = false := by decide
theorem test_illformed_rdacc : (AsmLine.rdacc 4).wellFormed = false := by decide
theorem test_illformed_hash128 : (AsmLine.hash128 [0x61, 0x100]).wellFormed = false := by decide
theorem test_illformed_hash256 : (AsmLine.hash256 [0x100, 0x61]).wellFormed = false := by decide

/-- An ill-formed line is refused by the assembler. -/
theorem test_illformed_refused : ∀ l ∈ [AsmLine.hstart 129, .hbyte 0x100, .tlook 0x100, .rdacc 4, .hash128 [0x61, 0x100],
    .hash256 [0x100, 0x61]], assemble l = none := by decide

/-! ## The assembler (R46, R47) -/

/-- The text of P1, with its comments. -/
theorem test_assemble_P1 : assembleText "hstart 128      # 0x1000\nhbyte 0x61\n\nhfinal # close\n" =
    some [0x1000, 0x2061, 0x3000] := by decide +kernel

/-- hash256 of "ab" (P2), decimal and hexadecimal operands, and an operand out of range. -/
theorem test_assemble_text : assembleText "hash256 61 62" = some [0x1100, 0x2061, 0x2062, 0x3000] ∧
    assembleText "hbyte 97\ntlook 0xff\nrdacc 3" = some [0x2061, 0x40FF, 0x5300] ∧
    assembleText "hbyte 256" = none ∧ assembleText "HFINAL" = none := by decide +kernel

/-! ## Pure functions (41_lane_recurrence.md) -/

/-- V-L2 and V-L3. -/
theorem test_bcast_mix : bcast 0x00 = 0 ∧ bcast 0xFF = 0xFFFFFFFFFFFFFFFF ∧
    mix 0 0x61 (mask .lowLane) = 0x6667646562636061 := by decide

/-- V-L4, rounds 0 and 7 of the trace. -/
theorem test_micro_trace :
    microRounds (lookup tInc) 1 (0x6667646562636061, 0) = (0x0066676465626360, 0x6200000000000000) ∧
    microRounds (lookup tInc) 8 (0x6667646562636061, 0) = (0, 0x6768656663646162) := by decide +kernel

/-- V-L5: the initial h has no effect. -/
theorem test_scratch_start : subRotFrom (lookup tInc) 0 0x0706050403020100 = 0x0807060504030201 ∧
    subRotFrom (lookup tInc) 0xFFFFFFFFFFFFFFFF 0x0706050403020100 = 0x0807060504030201 := by decide +kernel

/-- V-L12, V-L16 and V-L17. -/
theorem test_laneStep : laneStep (lookup tInc) 0 0xFF (mask .lowLane) = 0xF9FAFBFCFDFEFF00 ∧
    laneStep (lookup tInc) 0x0123456789ABCDEF 0x5A (mask .lowLaneUpper) = 0x4D700B2AC1E487A6 ∧
    laneStep (lookup tId) 0x0123456789ABCDEF 0x5A (mask .lowLaneUpper) = 0x4C6F0A29C0E386A5 := by decide +kernel

/-- R96: 16 and 32 lookups per byte. -/
theorem test_lookup_counts : hbyteLookups .w128 = 16 ∧ hbyteLookups .w256 = 32 := by decide

/-! ## One step of each command -/

/-- R62's example: STATUS 0x05, and a dirty state is cleaned. -/
theorem test_hstart : statusByte (after (.hstart .w256) (opened .w128)) = 0x05 ∧
    (after (.hstart .w256) (opened .w128)).acc = LaneFile.zero := by decide

/-- Section 2.5: STATUS 0x01 after hstart 128. -/
theorem test_hstart_128 : statusByte (after (.hstart .w128) { idle tInc with done := true }) = 0x01 := by decide

/-- R60's example (V-L7, V-L8), and the upper lanes stay 0 in the 128-bit mode. -/
theorem test_hbyte : (after (.hbyte 0x61) (after (.hstart .w128) (idle tInc))).acc =
    { lowLane := 0x6768656663646162, highLane := 0x6F706D6E6B6C696A, lowLaneUpper := 0, highLaneUpper := 0 } := by
  decide +kernel

/-- P2's accumulators: the second byte of "ab" in the 256-bit mode. -/
theorem test_hbyte_256 : (after (.hbyte 0x62) (opened .w256)).acc =
    { lowLane := 0x030D030103050301, highLane := 0x031D030103050301, lowLaneUpper := 0x030D030103050301,
      highLaneUpper := 0x03FD030103050301 } := by
  decide +kernel

/-- V-D12's hash128, and STATUS 0x02. -/
theorem test_hfinal : readDigest .w128 (after .hfinal (opened .w128)) =
    [0x62, 0x61, 0x64, 0x63, 0x66, 0x65, 0x68, 0x67, 0x6A, 0x69, 0x6C, 0x6B, 0x6E, 0x6D, 0x70, 0x6F] ∧
    statusByte (after .hfinal (opened .w128)) = 0x02 := by decide +kernel

/-- V-D12's hash256: lane order 3, 2, 0, 1 (R65). -/
theorem test_hfinal_256 : readDigest .w256 (after .hfinal (opened .w256)) =
    [0x7A, 0x79, 0x7C, 0x7B, 0x7E, 0x7D, 0x80, 0x7F, 0x72, 0x71, 0x74, 0x73, 0x76, 0x75, 0x78, 0x77] ++
    [0x62, 0x61, 0x64, 0x63, 0x66, 0x65, 0x68, 0x67, 0x6A, 0x69, 0x6C, 0x6B, 0x6E, 0x6D, 0x70, 0x6F] := by
  decide +kernel

/-- V-T3 and V-T4: the last indices, with the wrap. -/
theorem test_tlook : (after (.tlook 0xFE) (idle tInc)).result = 0xFF ∧
    (after (.tlook 0xFF) { idle tInc with result := 7 }).result = 0 := by decide +kernel

/-- R73's example: RESULT, and its first and last byte in the read space. -/
theorem test_rdacc : (after (.rdacc .highLane) (opened .w128)).result = 0x6F706D6E6B6C696A ∧
    rdPort (after (.rdacc .highLane) (opened .w128)) 0x20 = 0x6A ∧
    rdPort (after (.rdacc .highLane) (opened .w128)) 0x27 = 0x6F := by decide

/-! ## Faults -/

/-- V-E7 (P5's first command): code, word and STATUS, and the read space shows them little-endian. -/
theorem test_fault_hbyte : (afterWord 0x2041 (idle tInc)).errcode = 0x03 ∧ rdPort (afterWord 0x2041 (idle tInc)) 0x2A = 0x41 ∧
    rdPort (afterWord 0x2041 (idle tInc)) 0x2B = 0x20 ∧ statusByte (afterWord 0x2041 (idle tInc)) = 0x08 := by decide

/-- V-E8, V-E9 and V-E1: HFINAL with no invocation, the priority, and the zero word. -/
theorem test_fault_codes : (afterWord 0x3000 (idle tInc)).errcode = 0x04 ∧ (afterWord 0x3001 (idle tInc)).errcode = 0x02 ∧
    (afterWord 0x0000 (idle tInc)).errcode = 0x01 := by decide

/-- P6: the fault inside an open invocation, STATUS 0x09, and the next command is ignored. -/
theorem test_fault_in_invocation : statusByte (afterWord 0x3001 (opened .w128)) = 0x09 ∧
    (after .hfinal faulted).done = false ∧ (after (.hstart .w256) faulted).mode = .w128 := by decide

/-! ## Steps, reads, reset -/

/-- The step after withFetchWord runs that instruction. -/
theorem test_withFetchWord : (afterStep ((idle tInc).withFetchWord 16 0x1100)).active = true ∧
    (afterStep ((idle tInc).withFetchWord 16 0x1100)).host = [] := by decide

/-- The machine's own first state runs a command too: HSTART, and HBYTE's sequencing fault. -/
theorem test_reset_runs : (afterStep (State.reset.withFetchWord 16 0x1000)).active = true ∧
    (afterStep (State.reset.withFetchWord 16 0x2000)).errcode = 0x03 := by decide

/-- A host read returns a byte; reset leaves a fault. -/
theorem test_read_and_reset : (afterStep { faulted with host := [.read 0x29] }).reads = [0x02] ∧
    (afterStep { faulted with host := [.reset, .read 0x29] }).err = false ∧
    (afterStep { faulted with host := [.reset, .read 0x29] }).host = [.read 0x29] := by decide

/-- The edges of the read map (R28): last digest byte, first and last RESULT byte, the status bytes, reserved. -/
theorem test_read_map_edges : rdPort { opened .w128 with digest := Vector.replicate 32 0x77 } 0x1F = 0x77 ∧
    rdPort { opened .w128 with result := 0x1122334455667788 } 0x20 = 0x88 ∧
    rdPort { opened .w128 with result := 0x1122334455667788 } 0x27 = 0x11 ∧
    rdPort (opened .w256) 0x28 = 0x05 ∧ rdPort faulted 0x29 = 0x02 ∧ rdPort faulted 0x2A = 0x01 ∧
    rdPort faulted 0x2B = 0x30 ∧ rdPort faulted 0x2C = 0x00 ∧ rdPort faulted 0x3F = 0x00 := by decide

/-- STATUS after reset is 0x10 in an rfc3074 build (R89). -/
theorem test_status_variant : statusByte { idle tInc with variant := .rfc3074 } = 0x10 := by decide

/-! ## Witnesses: for each statement with hypotheses, a concrete case of each clause that meets them -/

theorem tId_lookup (x : Byte) : lookup tId x = x := lookup_ofFn _ x

theorem tInc_lookup (x : Byte) : lookup tInc x = x + 1 := lookup_ofFn _ x

theorem tId_isPermutation : IsPermutation tId := fun y => ⟨y, tId_lookup y, fun x hx => by simpa [tId_lookup] using hx⟩

theorem exec_after (i : Instr) (s : State) : exec i s = .next (after i s) := by
  cases i <;> cases h : s.err <;>
    simp [after, exec, execHstart, execHbyte, execHfinal, execTlook, execRdacc, h]

/-- The state after reset with the identity table meets the invariant. -/
theorem inv_idle : Inv (idle tId) where
  perm := tId_isPermutation
  clean := by decide
  recorded := fun h => absurd h (by decide)
  sequenced := by decide
  openNotDone := by decide
  blank := by decide
  finished := by decide
  upperZero := by decide
  idle := by decide

/-- An open 128-bit invocation with the identity table and no byte yet. -/
def openId : State := { idle tId with active := true }

theorem inv_openId : Inv openId where
  perm := tId_isPermutation
  clean := by decide
  recorded := fun h => absurd h (by decide)
  sequenced := by decide
  openNotDone := by decide
  blank := by decide
  finished := by decide
  upperZero := by decide
  idle := by decide

/-- A closed 128-bit invocation with the identity table. -/
def closedId : State := { idle tId with done := true }

theorem inv_closedId : Inv closedId where
  perm := tId_isPermutation
  clean := by decide
  recorded := fun h => absurd h (by decide)
  sequenced := by decide
  openNotDone := by decide
  blank := by decide
  finished := by decide
  upperZero := by decide
  idle := by decide

theorem witness_DecodeInvertsEncode :
    (Instr.hbyte 0xFF).wellFormed = true ∧ decode 0x5300 = .ok (.rdacc .highLaneUpper) := by decide

theorem witness_ReservedBitFaults : (opened .w128).err = false ∧
    (MalformedWord 0x1200 ∧ MalformedWord 0x1001 ∧ MalformedWord 0x2100 ∧ MalformedWord 0x3001 ∧ MalformedWord 0x3800 ∧
      MalformedWord 0x4100 ∧ MalformedWord 0x5400 ∧ MalformedWord 0x5001) :=
  ⟨rfl, by decide, by decide, by decide, by decide, by decide, by decide, by decide, by decide⟩

theorem witness_IllegalOpcodeFaults : (opened .w128).err = false ∧
    (IllegalWord 0x0000 ∧ IllegalWord 0x0FFF ∧ IllegalWord 0x6000 ∧ IllegalWord 0xFFFF) ∧ ¬ IllegalWord 0x1000 ∧ ¬ IllegalWord 0x5FFF := by decide

theorem witness_StepRunsDecodedCommand :
    { idle tInc with host := [.write 0x1100, .reset] }.host = .write 0x1100 :: [.reset] ∧
    decode 0x1100 = .ok (.hstart .w256) ∧ (Instr.hstart .w256).wellFormed = true := by decide

theorem witness_StepTakesHostActions : (idle tInc).host = [] ∧
    { idle tInc with host := [.write 0x0000] }.host = .write 0x0000 :: [] ∧
    { idle tInc with host := [.read 0x3F] }.host = .read 0x3F :: [] ∧
    { faulted with host := [.reset] }.host = .reset :: [] := by decide

theorem witness_AssemblerSpellsLegalWords : 0xFF ≤ 0xFF ∧ 3 ≤ 3 ∧ assemble (.hbyte 0xFF) = some [0x20FF] ∧
    assemble (.rdacc 3) = some [0x5300] ∧ 0x5300 ∈ [(0x5300 : CmdWord)] := by decide

theorem witness_SeedMaskValues : ∀ i : Fin 8, (slot 0x1F1E1D1C1B1A1918 i).toNat = 8 * Lane.highLaneUpper.toBits.toNat + i := by
  decide

theorem witness_ReadSpaceMap : 0x2C ≤ (0x2C : ReadAddr).toNat ∧ 0x2C ≤ (0x3F : ReadAddr).toNat := by decide

theorem witness_ReadsFollowProgramOrder :
    executeAll [encode (.hstart .w128), encode .hfinal] { idle tInc with host := [.reset] } =
      .next (after .hfinal (after (.hstart .w128) { idle tInc with host := [.reset] })) := rfl

theorem witness_EnginesAreIndependent :
    ({ engines := [idle tId, (idle tInc).withNextWord 0x1000] } : System).engines[1]? =
      some ((idle tInc).withNextWord 0x1000) ∧
    step ((idle tInc).withNextWord 0x1000) = .next (after (.hstart .w128) (idle tInc)) ∧ (0 : Nat) ≠ 1 ∧
    0 < (Config.nEngines : Nat) := ⟨rfl, rfl, by decide, Config.nEngines.pos⟩

theorem witness_OnlyNamedWriters :
    ((after (.hstart .w256) (opened .w128)).acc ≠ (opened .w128).acc ∧
      (after (.hstart .w256) (opened .w128)).mode ≠ (opened .w128).mode ∧
      (after (.hstart .w256) closedId).active ≠ closedId.active ∧
      (after (.hstart .w256) closedId).done ≠ closedId.done ∧
      (after .hfinal (opened .w128)).digest ≠ (opened .w128).digest ∧
      (after (.tlook 0) (idle tInc)).result ≠ (idle tInc).result ∧
      (after (.hbyte 0) (idle tInc)).err ≠ (idle tInc).err) ∧
    exec (.hbyte 0) (idle tInc) = .next (after (.hbyte 0) (idle tInc)) := ⟨by decide +kernel, exec_after _ _⟩

theorem witness_TableNeverChanges : takeAction .reset faulted = .next faulted.applyReset ∧
    takeAction (.read 0x3F) faulted = .next (hostRead 0x3F faulted) := ⟨rfl, rfl⟩

theorem witness_TlookReadsTable : (idle tId).err = false ∧ IsPermutation (idle tId).srom ∧ faulted.err = true ∧
    exec (.tlook 0xFF) (idle tId) = .next (after (.tlook 0xFF) (idle tId)) ∧
    (0x4100 : CmdWord).extractLsb' 12 4 = 0x4 ∧ (0x4100 : CmdWord).extractLsb' 8 4 ≠ 0 :=
  ⟨rfl, tId_isPermutation, rfl, exec_after _ _, by decide, by decide⟩

theorem witness_BroadcastFillsSlots : ∀ i, slot 0xFFFFFFFFFFFFFFFF i = 0xFF := by decide

theorem witness_SubRotSlotLaw : (7 : Fin 8).val + (0 : Fin 8).val ≤ 7 ∧ (7 : Fin 8).val + (0 : Fin 8).val = 7 ∧
    (0 : Fin 8).val + (7 : Fin 8).val ≤ 7 ∧ (0 : Fin 8).val + (7 : Fin 8).val = 7 := by decide

theorem witness_LaneStepSlotLaw : Function.Bijective (fun x : Byte => x) ∧ (∀ x : Byte, (fun y : Byte => y) x = x) ∧
    laneStep (fun x => x) 5 0xFF 7 = laneStep (fun x => x) 5 0xFF 7 := ⟨Function.bijective_id, fun _ => rfl, rfl⟩

theorem witness_LanesAreIndependent : (opened .w128).srom = (opened .w256).srom ∧
    (opened .w128).acc.get .lowLane = (opened .w256).acc.get .lowLane ∧ Lane.lowLane ≠ .highLaneUpper ∧
    [Lane.highLaneUpper, .lowLaneUpper, .highLane, .lowLane].Perm (activeLanes (opened .w256).mode) :=
  ⟨rfl, rfl, by decide, by decide⟩

theorem witness_HbyteFoldsActiveLanes :
    ((opened .w128).err = false ∧ (opened .w128).active = true ∧ (opened .w128).mode = .w128) ∧
    ((opened .w256).err = false ∧ (opened .w256).active = true ∧ (opened .w256).mode = .w256) ∧
    ((idle tInc).err = false ∧ (idle tInc).active = false) ∧ faulted.err = true ∧
    ((0x2100 : CmdWord).extractLsb' 12 4 = 0x2 ∧ (0x2100 : CmdWord).extractLsb' 8 4 ≠ 0) ∧
    Lane.highLane ∈ activeLanes (opened .w128).mode := by decide

theorem witness_HbyteFoldsActiveLanes_cancel : openId.err = false ∧ openId.active = true ∧
    (∀ x, lookup openId.srom x = x) ∧ exec (.hbyte 0x61) openId = .next (after (.hbyte 0x61) openId) ∧
    exec (.hbyte 0x61) (after (.hbyte 0x61) openId) = .next (after (.hbyte 0x61) (after (.hbyte 0x61) openId)) :=
  ⟨rfl, rfl, tId_lookup, exec_after _ _, exec_after _ _⟩

theorem witness_HbyteFrame : exec (.hbyte 0) (opened .w128) = .next (after (.hbyte 0) (opened .w128)) ∧
    Lane.lowLaneUpper ∉ activeLanes (opened .w128).mode ∧ (opened .w128).active = true ∧ (idle tInc).active = false ∧
    exec (.hbyte 0) (idle tInc) = .next (after (.hbyte 0) (idle tInc)) ∧ (0x27 : ReadAddr).toNat < 0x28 :=
  ⟨exec_after _ _, by decide, rfl, rfl, exec_after _ _, by decide⟩

theorem witness_LaneClosedForm : (idle tInc).err = false ∧ Lane.highLaneUpper ∈ activeLanes .w256 ∧
    Lane.highLane ∈ activeLanes .w128 := by decide

theorem witness_HstartOpensInvocation : (opened .w128).err = false ∧ faulted.err = true ∧
    (opened .w128).variant = .paper ∧
    exec (.hstart .w256) (opened .w128) = .next (after (.hstart .w256) (opened .w128)) ∧
    (0x1E00 : CmdWord).extractLsb' 12 4 = 0x1 ∧ (0x1E00 : CmdWord).extractLsb' 9 3 ≠ 0 :=
  ⟨rfl, rfl, rfl, exec_after _ _, by decide, by decide⟩

theorem witness_HfinalWritesDigest :
    ((opened .w128).err = false ∧ (opened .w128).active = true ∧ (opened .w128).mode = .w128 ∧
      (opened .w256).mode = .w256) ∧
    ((idle tInc).err = false ∧ (idle tInc).active = false) ∧ faulted.err = true ∧
    ((0x3001 : CmdWord).extractLsb' 12 4 = 0x3 ∧ (0x3001 : CmdWord).extractLsb' 0 8 ≠ 0) ∧
    exec (.hstart .w256) (idle tInc) = .next (after (.hstart .w256) (idle tInc)) ∧
    exec .hfinal (after (.hstart .w256) (idle tInc)) = .next (after .hfinal (after (.hstart .w256) (idle tInc))) :=
  ⟨by decide, by decide, rfl, by decide, exec_after _ _, exec_after _ _⟩

theorem witness_HstartHfinalFrame : exec (.hstart .w256) (opened .w128) = .next (after (.hstart .w256) (opened .w128)) ∧
    exec .hfinal (opened .w128) = .next (after .hfinal (opened .w128)) ∧ (opened .w128).active = true ∧
    exec .hfinal (idle tInc) = .next (after .hfinal (idle tInc)) ∧ (idle tInc).active = false ∧
    (0x20 ≤ (0x20 : ReadAddr).toNat ∧ (0x20 : ReadAddr).toNat ≠ 0x28) ∧
    (0x20 ≤ (0x3F : ReadAddr).toNat ∧ (0x3F : ReadAddr).toNat ≠ 0x28) ∧ (0x27 : ReadAddr).toNat < 0x28 :=
  ⟨exec_after _ _, exec_after _ _, rfl, exec_after _ _, rfl, by decide, by decide, by decide⟩

theorem witness_TransactionResult : Inv (idle tId) ∧ Inv closedId ∧ (idle tId).err = false ∧ closedId.err = false ∧
    (idle tId).srom = closedId.srom ∧ (idle tId).variant = closedId.variant ∧
    executeAll (hashWords .w128 []) (idle tId) = .next (after .hfinal (after (.hstart .w128) (idle tId))) ∧
    executeAll (hashWords .w128 []) closedId = .next (after .hfinal (after (.hstart .w128) closedId)) :=
  ⟨inv_idle, inv_closedId, rfl, rfl, rfl, rfl, rfl, rfl⟩

theorem witness_EmptyInputDigest : (opened .w256).err = false ∧ (idle tId).err = false ∧
    ∀ x, lookup (idle tId).srom x = x := ⟨rfl, rfl, tId_lookup⟩

theorem witness_CrossConsistency : (opened .w128).err = false := rfl

theorem witness_DigestClosedForm : (opened .w256).err = false := rfl

theorem witness_DigestIsDeterministic : (idle tInc).err = false ∧ (opened .w256).err = false ∧
    (idle tInc).srom = (opened .w256).srom ∧ (∀ x, lookup (idle tId).srom x = x) ∧
    ∀ x, lookup (idle tInc).srom x = x + 1 := ⟨rfl, rfl, rfl, tId_lookup, tInc_lookup⟩

theorem witness_DigestBytesBlank : (Inv (idle tId) ∧ (idle tId).done = false ∧ (0x1F : ReadAddr).toNat < 0x20) ∧
    (Inv closedId ∧ closedId.mode = .w128 ∧ 0x10 ≤ (0x10 : ReadAddr).toNat ∧ (0x10 : ReadAddr).toNat < 0x20) :=
  ⟨⟨inv_idle, rfl, by decide⟩, inv_closedId, rfl, by decide, by decide⟩

theorem witness_ObservationKeepsDigest : (idle tInc).err = false ∧
    ∀ i ∈ [Instr.tlook 0, .hbyte 0x61, .rdacc .lowLane, .hbyte 0], (∀ m', i ≠ .hstart m') ∧ i ≠ .hfinal := by
  refine ⟨rfl, ?_⟩
  simp

theorem witness_RdaccReadsLane : (opened .w256).err = false ∧ faulted.err = true ∧ Inv openId ∧ openId.err = false ∧
    openId.mode = .w128 ∧ exec (.rdacc .highLaneUpper) openId = .next (after (.rdacc .highLaneUpper) openId) ∧
    exec (.rdacc .lowLane) faulted.applyReset = .next (after (.rdacc .lowLane) faulted.applyReset) ∧
    exec .hfinal (opened .w128) = .next (after .hfinal (opened .w128)) ∧
    exec (.rdacc .lowLane) (after .hfinal (opened .w128)) =
      .next (after (.rdacc .lowLane) (after .hfinal (opened .w128))) ∧ (opened .w128).active = true ∧
    (0x5400 : CmdWord).extractLsb' 12 4 = 0x5 ∧ (0x5400 : CmdWord).extractLsb' 10 2 ≠ 0 :=
  ⟨rfl, rfl, inv_openId, rfl, rfl, exec_after _ _, exec_after _ _, exec_after _ _, exec_after _ _, rfl, by decide,
    by decide⟩

theorem witness_ObservationFrame : exec (.tlook 0xFF) (opened .w128) = .next (after (.tlook 0xFF) (opened .w128)) ∧
    exec (.rdacc .lowLane) (opened .w128) = .next (after (.rdacc .lowLane) (opened .w128)) ∧
    (0x1F : ReadAddr).toNat < 0x20 ∧ 0x28 ≤ (0x28 : ReadAddr).toNat := ⟨exec_after _ _, exec_after _ _, by decide, by decide⟩

theorem witness_OnlyFourFaultCodes : (idle tInc).err = false ∧
    executeWord 0x3000 (idle tInc) = .next (afterWord 0x3000 (idle tInc)) ∧ (afterWord 0x3000 (idle tInc)).err = true ∧
    executeWord 0x0000 (idle tInc) = .next (afterWord 0x0000 (idle tInc)) ∧ (afterWord 0x0000 (idle tInc)).err = true :=
  ⟨rfl, rfl, rfl, rfl, rfl⟩

theorem witness_SequencingFaults : (idle tInc).err = false ∧ (idle tInc).active = false ∧
    exec .hfinal (opened .w128) = .next (after .hfinal (opened .w128)) ∧ (opened .w128).err = false ∧
    exec (.hstart .w128) (idle tInc) = .next (after (.hstart .w128) (idle tInc)) ∧
    (after (.hstart .w128) (idle tInc)).active = true := ⟨rfl, rfl, exec_after _ _, rfl, exec_after _ _, rfl⟩

/-- One word under each clause of the priority, and no word under two: the clauses are an if-else chain. -/
theorem witness_FaultPriority : (idle tInc).err = false ∧ (idle tInc).active = false ∧ IllegalWord 0x0001 ∧
    (¬ IllegalWord 0x3001 ∧ MalformedWord 0x3001) ∧
    (¬ IllegalWord 0x2000 ∧ ¬ MalformedWord 0x2000 ∧ (0x2000 : CmdWord).extractLsb' 12 4 = 0x2) ∧
    (¬ IllegalWord 0x3000 ∧ ¬ MalformedWord 0x3000 ∧ (0x3000 : CmdWord).extractLsb' 12 4 = 0x3) ∧
    (¬ IllegalWord 0x1000 ∧ ¬ MalformedWord 0x1000) :=
  ⟨by decide, by decide, by decide, by decide, by decide, by decide, by decide⟩

theorem witness_FaultEntryIsPrecise : (opened .w128).err = false ∧
    executeWord 0x3001 (opened .w128) = .next (afterWord 0x3001 (opened .w128)) ∧
    (afterWord 0x3001 (opened .w128)).err = true ∧ (0x27 : ReadAddr).toNat < 0x28 := ⟨rfl, rfl, rfl, by decide⟩

theorem witness_IgnoredUnderFault : faulted.err = true := rfl

theorem witness_OnlyResetClearsFault : faulted.err = true ∧
    takeAction (.read 0x29) faulted = .next (hostRead 0x29 faulted) ∧ HostAction.read 0x29 ≠ .reset ∧
    takeAction (.write 0x1000) faulted = .next faulted := ⟨rfl, rfl, by decide, rfl⟩

theorem witness_FaultedTransactionGivesNoDigest : Inv openId ∧ openId.err = false ∧ openId.active = true ∧
    executeWord 0x3001 openId = .next (afterWord 0x3001 openId) ∧ (afterWord 0x3001 openId).err = true :=
  ⟨inv_openId, rfl, rfl, rfl, rfl⟩

theorem witness_ComputationNeverFaults : (opened .w256).err = false ∧ (opened .w256).active = true := ⟨rfl, rfl⟩

theorem witness_ResetInput : (idle tInc).variant = .paper ∧ { idle tInc with variant := .rfc3074 }.variant = .rfc3074 :=
  ⟨rfl, rfl⟩

theorem witness_DigestReadsAreStable : exec (.hbyte 0x61) (opened .w128) = .next (after (.hbyte 0x61) (opened .w128)) ∧
    (0x1F : ReadAddr).toNat < 0x20 ∧ faulted.err = true ∧ executeWord 0x1000 faulted = .next faulted :=
  ⟨exec_after _ _, by decide, rfl, rfl⟩

theorem witness_StepKeepsInvariant : Inv ((idle tId).withNextWord 0x1100) ∧
    step ((idle tId).withNextWord 0x1100) = .next (after (.hstart .w256) (idle tId)) :=
  ⟨⟨inv_idle.perm, inv_idle.clean, inv_idle.recorded, inv_idle.sequenced, inv_idle.openNotDone, inv_idle.blank,
    inv_idle.finished, inv_idle.upperZero, inv_idle.idle⟩, rfl⟩

end Sys2Proof.Tests
end

section
/-! SUPPORT. SROM and SBOX_VARIANT under every action of the host (R2, R14, R90). -/

namespace Sys2Proof.Machine

/-- A command of an open invocation keeps whatever both its fault entry and its action keep (R76). -/
theorem whenActive_keeps {α : Type} {s : State} {c : FaultCause} {w : CmdWord} {act : State → State} (f : State → α)
    (hfault : f (s.raiseFault c w) = f s) (hact : f (act s) = f s) : f (whenActive c w act s) = f s := by
  cases ha : s.active with
  | true => rw [whenActive_of_active ha, hact]
  | false => rw [whenActive_of_idle ha, hfault]

/-- No word on the command port writes the table or the build variant, not even one that faults (R14). -/
theorem executeWord_keeps_table {w : CmdWord} {s t : State} (h : executeWord w s = .next t) :
    t.srom = s.srom ∧ t.variant = s.variant := by
  rcases executeWord_cases h with ⟨-, rfl⟩ | ⟨e, -, -, rfl⟩ | ⟨m, -, -, rfl⟩ | ⟨b, -, -, rfl⟩ | ⟨-, -, rfl⟩ |
    ⟨i, -, -, rfl⟩ | ⟨l, -, -, rfl⟩
  · exact ⟨rfl, rfl⟩
  · simp
  · simp
  · exact ⟨whenActive_keeps State.srom (by simp) (foldByte_srom b s),
      whenActive_keeps State.variant (by simp) (foldByte_variant b s)⟩
  · exact ⟨whenActive_keeps State.srom (by simp) (by simp [closeInvocation_eq]),
      whenActive_keeps State.variant (by simp) (by simp [closeInvocation_eq])⟩
  · simp
  · simp

/-- An action of the host leaves the table and the build variant as they were. -/
theorem takeAction_keeps_table {a : HostAction} {s t : State} (h : takeAction a s = .next t) :
    t.srom = s.srom ∧ t.variant = s.variant := by
  cases a with
  | write w => exact executeWord_keeps_table h
  | read a =>
    obtain rfl : hostRead a s = t := Host.Outcome.next.inj h
    exact ⟨State.pushRead_srom s _, State.pushRead_variant s _⟩
  | reset =>
    obtain rfl : s.applyReset = t := Host.Outcome.next.inj h
    exact ⟨State.applyReset_srom s, State.applyReset_variant s⟩

/-- Settles O19: each action keeps SROM and SBOX_VARIANT, and S is read from SROM alone. -/
theorem tableNeverChanges : Obligations.TableNeverChanges := by
  intro a s t h
  obtain ⟨hsrom, hvariant⟩ := takeAction_keeps_table h
  exact ⟨hsrom, hvariant, fun x => congrFun (State.subst_congr hsrom) x⟩

end Sys2Proof.Machine
end

section
/-! SUPPORT. The engine's invariant at reset and under every step (R16 to R20, R49, R60, R66, R74 to R76, R89). -/

namespace Sys2Proof

/-- A command's word decodes to the command (R40, R41). -/
theorem decode_encode (i : Instr) : decode (encode i) = .ok i := by
  rw [decode_eq_ok, encode, Cmd16.ofWord_toWord]
  cases i with
  | hstart w => exact ⟨.hstart, rfl, by cases w <;> rfl, by cases w <;> rfl⟩
  | hbyte b => exact ⟨.hbyte, rfl, rfl, rfl⟩
  | hfinal => exact ⟨.hfinal, rfl, rfl, rfl⟩
  | tlook x => exact ⟨.tlook, rfl, rfl, rfl⟩
  | rdacc l => exact ⟨.rdacc, rfl, by cases l <;> rfl, by cases l <;> rfl⟩

end Sys2Proof

namespace Sys2Proof.Machine

/-! What a fault entry may record (R75). -/

theorem faultRecordSound_of_error {w : CmdWord} {e : DecodeError} (h : decode w = .error e) :
    FaultRecordSound (FaultCause.ofDecodeError e).code w := by
  simp [FaultRecordSound, h]

theorem faultRecordSound_hbyte (b : Byte) :
    FaultRecordSound FaultCause.noInvocationByte.code (encode (.hbyte b)) := by
  simp [FaultRecordSound, decode_encode, FaultCause.code]

theorem faultRecordSound_hfinal : FaultRecordSound FaultCause.noInvocationFinal.code (encode .hfinal) := by
  simp [FaultRecordSound, decode_encode, FaultCause.code]

/-- A word that is no command records no sequencing fault (R75). -/
theorem ofDecodeError_code_not_sequencing (e : DecodeError) :
    ¬ ((FaultCause.ofDecodeError e).code = 0x03 ∨ (FaultCause.ofDecodeError e).code = 0x04) := by
  cases e <;> decide

/-! Each write of the state that a step can make keeps the invariant. -/

/-- The invariant does not read RESULT or the host's side of the ports. -/
theorem Inv.update_ports {s : State} (h : Inv s) (v : Word) (hs : List HostAction) (rs : List Byte) :
    Inv { s with result := v, host := hs, reads := rs } :=
  ⟨h.perm, h.clean, h.recorded, h.sequenced, h.openNotDone, h.blank, h.finished, h.upperZero, h.idle⟩

theorem Inv.setResult {s : State} (h : Inv s) (v : Word) : Inv (s.setResult v) := h.update_ports v s.host s.reads

theorem Inv.setHost {s : State} (h : Inv s) (hs : List HostAction) : Inv (s.setHost hs) :=
  h.update_ports s.result hs s.reads

theorem Inv.pushRead {s : State} (h : Inv s) (b : Byte) : Inv (s.pushRead b) :=
  h.update_ports s.result s.host (b :: s.reads)

/-- Reset establishes the invariant from any state whose table is a permutation (R89, R90). -/
theorem inv_applyReset {s : State} (hperm : IsPermutation s.srom) : Inv s.applyReset where
  perm := hperm
  clean _ := ⟨rfl, rfl⟩
  recorded := by simp
  sequenced := by simp
  openNotDone := by simp
  blank _ := rfl
  finished := by simp
  upperZero _ := ⟨rfl, rfl⟩
  idle _ _ := ⟨rfl, rfl⟩

/-- A fault entry keeps the invariant when its record is sound and a sequencing fault comes with no open invocation. -/
theorem Inv.raiseFault {s : State} (h : Inv s) {c : FaultCause} {w : CmdWord} (hsound : FaultRecordSound c.code w)
    (hseq : c.code = 0x03 ∨ c.code = 0x04 → s.active = false) : Inv (s.raiseFault c w) where
  perm := h.perm
  clean := by simp
  recorded _ := hsound
  sequenced _ := hseq
  openNotDone := h.openNotDone
  blank := h.blank
  finished := h.finished
  upperZero := h.upperZero
  idle := h.idle

/-- Opening an invocation when no fault stands (R62). -/
theorem Inv.hstart {s : State} (h : Inv s) (herr : s.err = false) (m : Mode) :
    Inv (((((s.clearAcc).setMode m).setActive true).setDone false).setDigest Digest.zero) where
  perm := h.perm
  clean := h.clean
  recorded := h.recorded
  sequenced := by simp [herr]
  openNotDone _ := rfl
  blank _ := rfl
  finished := by simp
  upperZero _ := ⟨rfl, rfl⟩
  idle := by simp

/-- HBYTE's fold leaves the accumulator of a lane that the mode does not use (R60). -/
theorem foldByte_get_inactive {s : State} {l : Lane} (hl : l ∉ activeLanes s.mode) (b : Byte) :
    (foldByte b s).acc.get l = s.acc.get l := by
  rw [foldByte_get, if_neg hl]

/-- Folding a byte into an open invocation (R60): it is not finished, so DIGEST owes the accumulators nothing, and in
the 128-bit mode the upper lanes stay as they were. -/
theorem Inv.foldByte {s : State} (h : Inv s) (hactive : s.active = true) (b : Byte) : Inv (foldByte b s) where
  perm := by simpa using h.perm
  clean := by simpa using h.clean
  recorded := by simpa using h.recorded
  sequenced := by simpa using h.sequenced
  openNotDone := by simpa using h.openNotDone
  blank := by simpa using h.blank
  finished := by simp [h.openNotDone hactive]
  upperZero hmode := by
    rw [foldByte_mode] at hmode
    obtain ⟨h2, h3⟩ := h.upperZero hmode
    have hl2 : Lane.lowLaneUpper ∉ activeLanes s.mode := by simp [hmode, activeLanes]
    have hl3 : Lane.highLaneUpper ∉ activeLanes s.mode := by simp [hmode, activeLanes]
    exact ⟨(foldByte_get_inactive hl2 b).trans h2, (foldByte_get_inactive hl3 b).trans h3⟩
  idle := by simp [hactive]

/-- Closing an invocation (R66): DIGEST is now what MODE and the accumulators give. -/
theorem Inv.closeInvocation {s : State} (h : Inv s) : Inv (closeInvocation s) where
  perm := h.perm
  clean := h.clean
  recorded := h.recorded
  sequenced _ _ := rfl
  openNotDone _ := by contradiction
  blank _ := by contradiction
  finished _ := rfl
  upperZero := h.upperZero
  idle _ _ := by contradiction

/-- A command of an open invocation keeps the invariant when its action does so there, and its fault is a sound one. -/
theorem Inv.whenActive {s : State} (h : Inv s) {c : FaultCause} {w : CmdWord} {act : State → State}
    (hsound : FaultRecordSound c.code w) (hact : s.active = true → Inv (act s)) : Inv (whenActive c w act s) := by
  cases hactive : s.active with
  | true => rw [whenActive_of_active hactive]; exact hact hactive
  | false => rw [whenActive_of_idle hactive]; exact h.raiseFault hsound fun _ => hactive

/-- Every word on the command port keeps the invariant. -/
theorem Inv.executeWord {w : CmdWord} {s t : State} (h : Inv s) (ht : executeWord w s = .next t) : Inv t := by
  rcases executeWord_cases ht with ⟨-, rfl⟩ | ⟨e, -, hd, rfl⟩ | ⟨m, herr, -, rfl⟩ | ⟨b, -, -, rfl⟩ | ⟨-, -, rfl⟩ |
    ⟨i, -, -, rfl⟩ | ⟨l, -, -, rfl⟩
  · exact h
  · exact h.raiseFault (faultRecordSound_of_error hd) fun hc => absurd hc (ofDecodeError_code_not_sequencing e)
  · exact h.hstart herr m
  · exact h.whenActive (faultRecordSound_hbyte b) fun hactive => h.foldByte hactive b
  · exact h.whenActive faultRecordSound_hfinal fun _ => h.closeInvocation
  · exact h.setResult _
  · exact h.setResult _

/-- Every action of the host keeps the invariant. -/
theorem Inv.takeAction {a : HostAction} {s t : State} (h : Inv s) (ht : takeAction a s = .next t) : Inv t := by
  cases a with
  | write w => exact h.executeWord ht
  | read a =>
    obtain rfl : hostRead a s = t := Host.Outcome.next.inj ht
    exact h.pushRead _
  | reset =>
    obtain rfl : s.applyReset = t := Host.Outcome.next.inj ht
    exact inv_applyReset h.perm

/-- A step idles, or takes the host's oldest action. -/
theorem step_cases {s t : State} (h : step s = .next t) :
    (s.host = [] ∧ t = s) ∨ ∃ a rest, s.host = a :: rest ∧ takeAction a (s.setHost rest) = .next t := by
  cases hhost : s.host with
  | nil => exact .inl ⟨rfl, by simpa [step, hhost, eq_comm] using h⟩
  | cons a rest => exact .inr ⟨a, rest, rfl, by simpa [step, hhost] using h⟩

/-- Settles O56: a step idles or takes one action of the host, and every action keeps the invariant. -/
theorem stepKeepsInvariant : Obligations.StepKeepsInvariant := by
  intro s t h hstep
  rcases step_cases hstep with ⟨-, rfl⟩ | ⟨a, rest, -, ht⟩
  · exact h
  · exact (h.setHost rest).takeAction ht

/-- Settles O55: the first state is one that reset leaves, and its table is made from a permutation (R3). -/
theorem invariantAtReset : Obligations.InvariantAtReset :=
  inv_applyReset (s := State.reset) (isPermutation_ofFn (Config.permOf Config.sboxVariant))

end Sys2Proof.Machine
end

section
/-! SUPPORT. What each command writes (R10, R14 to R22). -/

namespace Sys2Proof.Machine

/-- What a command does when no fault stands (R44). -/
def action : Instr → State → State
  | .hstart m => fun s => ((((s.clearAcc).setMode m).setActive true).setDone false).setDigest Digest.zero
  | .hbyte b => whenActive .noInvocationByte (encode (.hbyte b)) (foldByte b)
  | .hfinal => whenActive .noInvocationFinal (encode .hfinal) closeInvocation
  | .tlook x => fun s => s.setResult (zext64 (s.subst x))
  | .rdacc l => fun s => s.setResult (s.acc.get l)

/-- Every command is its action, ignored under a fault (R79). -/
theorem exec_eq_unlessErr (i : Instr) (s : State) : exec i s = unlessErr s (action i) := by
  cases i <;> rfl

/-- Settles O18, command by command; HBYTE and HFINAL either act on an open invocation or write the fault record. -/
theorem onlyNamedWriters : Obligations.OnlyNamedWriters := by
  intro i s t h
  rw [exec_eq_unlessErr, unlessErr_eq_next] at h
  rcases h with ⟨-, rfl⟩ | ⟨herr, rfl⟩
  · simp
  cases i with
  | hstart m => simp [action]
  | hbyte b =>
    cases hactive : s.active with
    | true => simp [action, hactive]
    | false => simp [action, hactive, herr]
  | hfinal =>
    cases hactive : s.active with
    | true => simp [action, hactive, closeInvocation_eq]
    | false => simp [action, hactive, herr]
  | tlook x => simp [action]
  | rdacc l => simp [action]

end Sys2Proof.Machine
end

section
/-! SUPPORT. STATUS bit by bit (R23) and the seed masks slot by slot (R11, R12). -/

namespace Sys2Proof.Machine

@[simp] theorem variantBit_getElem_zero (v : SboxVariant) : (variantBit v)[0] = decide (v = .rfc3074) := by
  cases v <;> decide

@[simp] theorem toBit_getElem_zero (m : Mode) : m.toBit[0] = decide (m = .w256) := by
  cases m <;> decide

/-- A bit of STATUS, by its place below the reserved bits (R23). -/
theorem statusByte_getLsbD (s : State) (i : Nat) :
    (statusByte s).getLsbD i =
      match i with
      | 0 => s.active
      | 1 => s.done
      | 2 => decide (s.mode = .w256)
      | 3 => s.err
      | 4 => decide (s.variant = .rfc3074)
      | _ => false := by
  change ((0 : BitVec 3) ++ variantBit s.variant ++ BitVec.ofBool s.err ++ s.mode.toBit ++ BitVec.ofBool s.done ++
    BitVec.ofBool s.active).getLsbD i = _
  simp only [BitVec.getLsbD_append]
  rcases i with _ | _ | _ | _ | _ | i <;> simp

/-- Settles O12: the fields of STATUS are one bit each, and its upper three bits are 0. -/
theorem statusBits : Obligations.StatusBits := by
  intro s
  refine ⟨statusByte_getLsbD s 0, statusByte_getLsbD s 1, statusByte_getLsbD s 2, statusByte_getLsbD s 3,
    statusByte_getLsbD s 4, ?_⟩
  apply BitVec.eq_of_getLsbD_eq
  intro i hi
  rw [BitVec.getLsbD_extractLsb', Nat.add_comm, statusByte_getLsbD]
  simp

/-- Slot `i` of MASK[l] is the number 8l + i (R11, R12). -/
theorem slot_mask_toNat (l : Lane) (i : Fin 8) : (slot (mask l) i).toNat = 8 * l.toBits.toNat + i := by
  rw [mask, slot_wordOfSlots]
  cases l <;> revert i <;> decide

/-- Settles O11: the slot values are those of the closed form 8l + i, and a word is determined by its slots. -/
theorem seedMaskValues : Obligations.SeedMaskValues := by
  refine ⟨by decide, by decide, by decide, by decide, fun i => ?_, fun l w hw => ?_⟩
  · exact ⟨by simpa [Lane.toBits] using slot_mask_toNat .lowLane i, slot_mask_toNat .highLane i,
      slot_mask_toNat .lowLaneUpper i, slot_mask_toNat .highLaneUpper i⟩
  · exact word_ext_slot fun i => BitVec.eq_of_toNat_eq ((hw i).trans (slot_mask_toNat l i).symm)

end Sys2Proof.Machine
end

section
/-! SUPPORT. The byte map of the read space (R27 to R30), and a host's read of it (R29). -/

namespace Sys2Proof.Machine

/-- DIGEST from address 0x00 (R28). -/
theorem rdPort_digest (s : State) (k : Fin 32) : rdPort s (BitVec.ofNat 6 k) = s.digest[k] := by
  have ha : (BitVec.ofNat 6 k).toNat = k := by rw [BitVec.toNat_ofNat, Nat.mod_eq_of_lt (by omega)]
  have hk : (k : Nat) ≤ 0x1F := by omega
  simp [rdPort, ha, hk]

/-- RESULT from address 0x20 (R28). -/
theorem rdPort_result (s : State) (k : Fin 8) : rdPort s (BitVec.ofNat 6 (0x20 + k)) = slot s.result k := by
  have ha : (BitVec.ofNat 6 (0x20 + k)).toNat = 0x20 + k := by
    rw [BitVec.toNat_ofNat, Nat.mod_eq_of_lt (by omega)]
  have hdigest : ¬ 0x20 + (k : Nat) ≤ 0x1F := by omega
  have hresult : 0x20 + (k : Nat) ≤ 0x27 := by omega
  simp [rdPort, ha, hdigest, hresult]

/-- ERRCMD from address 0x2A (R28). -/
theorem rdPort_errcmd (s : State) (k : Fin 2) :
    rdPort s (BitVec.ofNat 6 (0x2A + k)) = s.errcmd.extractLsb' (8 * k) 8 := by
  fin_cases k <;> rfl

/-- Above ERRCMD every address is reserved (R28). -/
theorem rdPort_reserved (s : State) {a : ReadAddr} (ha : 0x2C ≤ a.toNat) : rdPort s a = 0x00 := by
  rw [rdPort, dif_neg (by omega), dif_neg (by omega), if_neg (by omega), if_neg (by omega), if_neg (by omega),
    if_neg (by omega)]

/-- Settles O13: the rows of the map in the order of their addresses. -/
theorem readSpaceMap : Obligations.ReadSpaceMap := fun s =>
  ⟨rdPort_digest s, rdPort_result s, rfl, rfl, rdPort_errcmd s 0, rdPort_errcmd s 1, fun _ => rdPort_reserved s⟩

/-- A word is its slots put together again (R6). -/
theorem wordOfSlots_slot (w : Word) : wordOfSlots (slot w) = w :=
  word_ext_slot (slot_wordOfSlots (slot w))

/-- Settles O15: byte k of RESULT is its slot k, byte k of ERRCMD its bits from 8k, and each register is its bytes put
together with the last one on top. -/
theorem littleEndianReads : Obligations.LittleEndianReads := by
  intro s
  refine ⟨fun k j => ?_, fun k j => ?_, ?_, ?_⟩
  · rw [rdPort_result, slot, BitVec.getLsbD_extractLsb', decide_eq_true j.isLt, Bool.true_and]
  · rw [rdPort_errcmd, BitVec.getLsbD_extractLsb', decide_eq_true j.isLt, Bool.true_and]
  · have hbytes : wordOfSlots (slot s.result) = wordOfSlots fun k => rdPort s (BitVec.ofNat 6 (0x20 + k)) :=
      congrArg wordOfSlots (funext fun k => (rdPort_result s k).symm)
    exact (wordOfSlots_slot s.result).symm.trans hbytes
  · change s.errcmd = s.errcmd.extractLsb' 8 8 ++ s.errcmd.extractLsb' 0 8
    rw [BitVec.extractLsb'_append_extractLsb'_eq_extractLsb' (show 8 = 0 + 8 from rfl), BitVec.extractLsb'_eq_self]

/-- Every byte of the read space is a view of the engine, not of what the host has read (R29). -/
@[simp] theorem rdPort_pushRead (s : State) (b : Byte) (a : ReadAddr) : rdPort (s.pushRead b) a = rdPort s a := rfl

/-- Nor of what the host has still to do. -/
@[simp] theorem rdPort_setHost (s : State) (h : List HostAction) (a : ReadAddr) :
    rdPort (s.setHost h) a = rdPort s a := rfl

/-- A read adds a byte to the host's list and leaves every other field. -/
theorem hostRead_eq (a : ReadAddr) (s : State) : hostRead a s = { s with reads := rdPort s a :: s.reads } := rfl

/-- Settles O14: a read writes the list of bytes read alone, of which the read space is no view. -/
theorem hostReadHasNoSideEffect : Obligations.HostReadHasNoSideEffect := by
  intro s a
  refine ⟨?_, fun a' => rdPort_pushRead s (rdPort s a) a'⟩
  rw [takeAction, hostRead_eq]

end Sys2Proof.Machine
end

section
/-! SUPPORT. A step by the host's next action (R34, R87, R91): every one completes (R97), and what a word does is the
same whatever the host does after it. -/

namespace Sys2Proof.Machine

/-! A step, by the list of what the host has still to do (log entry 1). -/

theorem step_of_nil {s : State} (h : s.host = []) : step s = .next s := by
  simp [step, h]

theorem step_of_cons {s : State} {a : HostAction} {rest : List HostAction} (h : s.host = a :: rest) :
    step s = takeAction a (s.setHost rest) := by
  simp [step, h]

/-- The reset input gives the machine's first state, but for the build's constants and the host's fields (R89, R90). -/
theorem applyReset_eq (s : State) :
    s.applyReset = { State.reset with srom := s.srom, variant := s.variant, host := s.host, reads := s.reads } := rfl

/-- Settles O8: the four forms the host's list can have. -/
theorem stepTakesHostActions : Obligations.StepTakesHostActions := by
  refine ⟨fun s h => step_of_nil h, fun s w rest h => step_of_cons h, fun s a rest h => ?_, fun s rest h => ?_⟩
  · rw [step_of_cons h, takeAction, hostRead_eq, rdPort_setHost]; rfl
  · rw [step_of_cons h, takeAction, applyReset_eq]; rfl

/-! Execute(w) as one action, ignored under a fault (R44, R79). -/

/-- What a word does when no fault stands: the fault entry of a word that is no command, or its command's action. -/
def wordAction (w : CmdWord) : State → State :=
  match decode w with
  | .error e => fun s => s.raiseFault (FaultCause.ofDecodeError e) w
  | .ok i => action i

theorem executeWord_eq_unlessErr (w : CmdWord) (s : State) : executeWord w s = unlessErr s (wordAction w) := by
  cases hd : decode w with
  | error e => rw [executeWord_of_error hd]; simp only [wordAction, hd]
  | ok i => rw [executeWord_of_ok hd, exec_eq_unlessErr]; simp only [wordAction, hd]

/-! Every action completes, from every state (R97). -/

theorem unlessErr_completes (s : State) (act : State → State) : ∃ t, unlessErr s act = .next t := by
  cases h : s.err with
  | true => exact ⟨s, unlessErr_of_err h act⟩
  | false => exact ⟨act s, unlessErr_of_clear h act⟩

theorem takeAction_completes (a : HostAction) (s : State) : ∃ t, takeAction a s = .next t := by
  cases a with
  | write w => rw [takeAction, executeWord_eq_unlessErr]; exact unlessErr_completes s (wordAction w)
  | read a => exact ⟨hostRead a s, rfl⟩
  | reset => exact ⟨s.applyReset, rfl⟩

theorem step_completes (s : State) : ∃ t, step s = .next t := by
  cases h : s.host with
  | nil => exact ⟨s, step_of_nil h⟩
  | cons a rest => rw [step_of_cons h]; exact takeAction_completes a (s.setHost rest)

/-! What a word does, whatever the host has still to do. -/

theorem foldByte_setHost (b : Byte) (s : State) (h : List HostAction) :
    foldByte b (s.setHost h) = (foldByte b s).setHost h :=
  List.foldl_hom (g₁ := stepLane b) (g₂ := stepLane b) (State.setHost · h) fun _ _ => rfl

theorem whenActive_setHost {c : FaultCause} {w : CmdWord} {act : State → State} {s : State} {h : List HostAction}
    (hact : act (s.setHost h) = (act s).setHost h) :
    whenActive c w act (s.setHost h) = (whenActive c w act s).setHost h := by
  cases hs : s.active with
  | true => rw [whenActive_of_active (s := s.setHost h) hs, whenActive_of_active hs, hact]
  | false => rw [whenActive_of_idle (s := s.setHost h) hs, whenActive_of_idle hs]; rfl

theorem action_setHost (i : Instr) (s : State) (h : List HostAction) :
    action i (s.setHost h) = (action i s).setHost h := by
  cases i with
  | hstart m => rfl
  | hbyte b => exact whenActive_setHost (foldByte_setHost b s h)
  | hfinal => exact whenActive_setHost rfl
  | tlook x => rfl
  | rdacc l => rfl

theorem wordAction_setHost (w : CmdWord) (s : State) (h : List HostAction) :
    wordAction w (s.setHost h) = (wordAction w s).setHost h := by
  cases hd : decode w with
  | error e => simp only [wordAction, hd]; rfl
  | ok i => simp only [wordAction, hd, action_setHost]

theorem executeWord_setHost {w : CmdWord} {s t : State} (ht : executeWord w s = .next t) (h : List HostAction) :
    executeWord w (s.setHost h) = .next (t.setHost h) := by
  rw [executeWord_eq_unlessErr, unlessErr_eq_next] at ht ⊢
  rcases ht with ⟨herr, rfl⟩ | ⟨herr, rfl⟩
  · exact .inl ⟨herr, rfl⟩
  · exact .inr ⟨herr, (wordAction_setHost w s h).symm⟩

/-- A word leaves what the host has still to do: it answers the same state when that list is put there once more. -/
theorem executeWord_host {w : CmdWord} {s t : State} (ht : executeWord w s = .next t) : t.host = s.host := by
  have heq : t = t.setHost s.host := Host.Outcome.next.inj (ht.symm.trans (executeWord_setHost ht s.host))
  exact (congrArg State.host heq).trans (State.setHost_host t s.host)

/-! Runs in which the host writes some words first (R34). -/

/-- Words executed one after another: the first completes, and the others go on from there. -/
theorem executeAll_cons_eq_next {w : CmdWord} {ws : List CmdWord} {s t : State} :
    executeAll (w :: ws) s = .next t ↔ ∃ u, executeWord w s = .next u ∧ executeAll ws u = .next t := by
  rw [executeAll]
  cases executeWord w s <;> simp

theorem executeAll_host {ws : List CmdWord} {s t : State} (ht : executeAll ws s = .next t) : t.host = s.host := by
  induction ws generalizing s with
  | nil =>
    obtain rfl : s = t := Host.Outcome.next.inj ht
    rfl
  | cons w ws ih =>
    obtain ⟨u, hu, hrest⟩ := executeAll_cons_eq_next.mp ht
    rw [ih hrest, executeWord_host hu]

/-- The steps that take some words execute exactly those, and the run goes on from the state they leave, whatever the
host does next. -/
theorem core_run_writes {ws : List CmdWord} {s t : State} (ht : executeAll ws s = .next t) (rest : List HostAction)
    (n : Nat) :
    Sys2Proof.core.run (ws.length + n) (s.setHost (ws.map HostAction.write ++ rest)) =
      Sys2Proof.core.run n (t.setHost rest) := by
  induction ws generalizing s with
  | nil =>
    obtain rfl : s = t := Host.Outcome.next.inj ht
    rw [List.length_nil, Nat.zero_add, List.map_nil, List.nil_append]
  | cons w ws ih =>
    obtain ⟨u, hu, hrest⟩ := executeAll_cons_eq_next.mp ht
    have hstep : step (s.setHost ((w :: ws).map HostAction.write ++ rest)) =
        .next (u.setHost (ws.map HostAction.write ++ rest)) :=
      (step_of_cons (State.setHost_host s _)).trans (executeWord_setHost hu _)
    rw [List.length_cons, Nat.add_right_comm, core_run_succ hstep, ih hrest]

/-- Settles O16: the steps take the words first, and the read that follows is of the state they leave. -/
theorem readsFollowProgramOrder : Obligations.ReadsFollowProgramOrder := by
  intro ws a rest s t ht
  have hhost : t.setHost rest = t := by rw [← show t.host = rest from executeAll_host ht]; rfl
  have hread : step (t.setHost (.read a :: rest)) = .next (hostRead a t) := by
    rw [step_of_cons (State.setHost_host t _), takeAction]
    exact congrArg (fun u => Host.Outcome.next (hostRead a u)) hhost
  calc Sys2Proof.core.run (ws.length + 1) { s with host := ws.map HostAction.write ++ .read a :: rest }
    _ = Sys2Proof.core.run 1 (t.setHost (.read a :: rest)) := core_run_writes ht (.read a :: rest) 1
    _ = Sys2Proof.core.run 0 (hostRead a t) := core_run_succ hread
    _ = .next { t with reads := rdPort t a :: t.reads } := core_run_zero (hostRead a t)

end Sys2Proof.Machine
end

section
/-! SUPPORT. The engines of a system (R36, R85). -/

namespace Sys2Proof.Machine

theorem stepEngine_of_none {y : System} {k : Nat} (hk : y.engines[k]? = none) : y.stepEngine k = .next y := by
  simp [System.stepEngine, hk]

/-- A system's step of one engine is that engine's own step, put in its place. -/
theorem stepEngine_of_some {y : System} {k : Nat} {s t : State} (hk : y.engines[k]? = some s)
    (hstep : step s = .next t) : y.stepEngine k = .next { engines := y.engines.set k t } := by
  simp [System.stepEngine, hk, hstep]

/-- Settles O17: a number that no engine has leaves the system as it is, and an engine's step, which always
completes, writes its own place in the list. -/
theorem enginesAreIndependent : Obligations.EnginesAreIndependent := by
  refine ⟨fun y k => ?_, List.length_replicate, fun k hk => List.getElem?_replicate_of_lt hk⟩
  cases hk : y.engines[k]? with
  | none => exact ⟨y, stepEngine_of_none hk, rfl, fun _ _ => rfl, by simp⟩
  | some s =>
    obtain ⟨t, hstep⟩ := step_completes s
    refine ⟨_, stepEngine_of_some hk hstep, List.length_set, fun j hj => List.getElem?_set_ne hj.symm, ?_⟩
    intro s' t' hs' ht'
    obtain rfl : s = s' := Option.some.inj hs'
    obtain rfl : t = t' := Host.Outcome.next.inj (hstep.symm.trans ht')
    obtain ⟨hlt, -⟩ := List.getElem?_eq_some_iff.mp hk
    exact List.getElem?_set_self hlt

end Sys2Proof.Machine
end

section
/-! SUPPORT. Decoder and encoder against each other and against the bits of a word (R39 to R43). -/

namespace Sys2Proof

/-! The word each command encodes to. -/

/-- A word as its fields put over each other (R39). -/
theorem Cmd16.toWord_eq_or (f : Cmd16) :
    f.toWord = (f.op ++ f.x).setWidth 16 <<< 8 ||| f.imm8.setWidth 16 := by
  rw [Cmd16.toWord, BitVec.append_def, BitVec.shiftLeftZeroExtend_eq, BitVec.setWidth'_eq]

theorem encode_hbyte (b : Byte) : encode (.hbyte b) = 0x2000 ||| b.setWidth 16 := by
  simp [encode, Cmd16.toWord_eq_or, Instr.fields]

theorem encode_tlook (i : Byte) : encode (.tlook i) = 0x4000 ||| i.setWidth 16 := by
  simp [encode, Cmd16.toWord_eq_or, Instr.fields]

/-- A word as a number: OP, X and IMM8 in the places R39 gives them. -/
theorem Cmd16.toWord_toNat (f : Cmd16) :
    f.toWord.toNat = 0x1000 * f.op.toNat + 0x100 * f.x.toNat + f.imm8.toNat := by
  rw [Cmd16.toWord, BitVec.toNat_append, ← Nat.shiftLeft_add_eq_or_of_lt f.imm8.isLt, BitVec.toNat_append,
    ← Nat.shiftLeft_add_eq_or_of_lt f.x.isLt, Nat.shiftLeft_eq, Nat.shiftLeft_eq]
  omega

theorem encode_hbyte_toNat (b : Byte) : (encode (.hbyte b)).toNat = 0x2000 + b.toNat :=
  Cmd16.toWord_toNat (Instr.hbyte b).fields

theorem encode_tlook_toNat (i : Byte) : (encode (.tlook i)).toNat = 0x4000 + i.toNat :=
  Cmd16.toWord_toNat (Instr.tlook i).fields

/-! Decoding inverts encoding. -/

/-- An opcode's operands determine the fields, once its reserved-zero bits are 0 (R40, R41). -/
theorem Opcode.fields_instr {o : Opcode} {f : Cmd16} (hop : f.op = o.code) (hres : o.reservedBits f.x f.imm8 = 0) :
    (o.instr f).fields = f := by
  obtain ⟨op, x, imm8⟩ := f
  have hwidth : ∀ x : BitVec 4, (x.extractLsb' 1 3).setWidth 8 = 0#8 → (x.extractLsb' 0 1).setWidth 4 = x := by decide
  have hlane : ∀ x : BitVec 4, (x.extractLsb' 2 2).setWidth 8 = 0#8 → (x.extractLsb' 0 2).setWidth 4 = x := by decide
  have hzero : ∀ x : BitVec 4, x.setWidth 8 = 0#8 → 0#4 = x := by decide
  subst hop
  cases o with
  | hstart =>
    obtain ⟨hx, rfl⟩ := BitVec.or_eq_zero_iff.mp hres
    simp [Opcode.instr, Instr.fields, Opcode.code, hwidth x hx]
  | hbyte => simp [Opcode.instr, Instr.fields, Opcode.code, hzero x hres]
  | hfinal =>
    obtain ⟨hx, rfl⟩ := BitVec.or_eq_zero_iff.mp hres
    simp [Opcode.instr, Instr.fields, Opcode.code, hzero x hx]
  | tlook => simp [Opcode.instr, Instr.fields, Opcode.code, hzero x hres]
  | rdacc =>
    obtain ⟨hx, rfl⟩ := BitVec.or_eq_zero_iff.mp hres
    simp [Opcode.instr, Instr.fields, Opcode.code, hlane x hx]

/-- A word that decodes is the word of its command (R41). -/
theorem encode_of_decode {w : CmdWord} {i : Instr} (h : decode w = .ok i) : encode i = w := by
  obtain ⟨o, hop, hres, rfl⟩ := decode_eq_ok.mp h
  rw [encode, Opcode.fields_instr (Opcode.code_of_ofCode hop) hres, Cmd16.toWord_ofWord]

/-- A word decodes to a command exactly when it is the command's word. -/
theorem decode_eq_ok_iff_encode {w : CmdWord} {i : Instr} : decode w = .ok i ↔ encode i = w :=
  ⟨encode_of_decode, fun h => h ▸ decode_encode i⟩

theorem encode_injective : Function.Injective encode := fun i _ h =>
  Except.ok.inj ((decode_encode i).symm.trans (decode_eq_ok_iff_encode.mpr h.symm))

/-- Settles O2, the second direction by the fields that an opcode and its operands determine. -/
theorem decodeInvertsEncode : Obligations.DecodeInvertsEncode :=
  ⟨fun i _ => decode_encode i, fun _ _ h => encode_of_decode h⟩

/-- Settles O1: the nine words are the commands' own. -/
theorem specWordsDecode : Obligations.SpecWordsDecode :=
  ⟨decode_encode (.hstart .w128), decode_encode (.hstart .w256), decode_encode (.hbyte 0x61), decode_encode (.hbyte 0xFF),
    decode_encode .hfinal, decode_encode (.tlook 0xFE), decode_encode (.rdacc .lowLane),
    decode_encode (.rdacc .highLane), decode_encode (.rdacc .highLaneUpper)⟩

end Sys2Proof
end

section
/-! SUPPORT. The words that are no command, by their bits (R42, R43), and the words that are one (R41). -/

namespace Sys2Proof

theorem Opcode.ofCode_eq_some {op : BitVec 4} {o : Opcode} : Opcode.ofCode op = some o ↔ op = o.code :=
  ⟨Opcode.code_of_ofCode, fun h => h ▸ Opcode.ofCode_code o⟩

/-- No opcode has the code 0x0 or one from 0x6 up (R43). -/
theorem Opcode.ofCode_eq_none {op : BitVec 4} : Opcode.ofCode op = none ↔ op = 0x0 ∨ 6 ≤ op.toNat := by
  revert op
  decide

/-- Some opcode has a property when one of the five has it, in the order of their codes (R41). -/
theorem Opcode.exists_iff {p : Opcode → Prop} :
    (∃ o, p o) ↔ p .hstart ∨ p .hbyte ∨ p .hfinal ∨ p .tlook ∨ p .rdacc := by
  refine ⟨fun ⟨o, h⟩ => ?_, fun h => ?_⟩
  · cases o <;> simp [h]
  · rcases h with h | h | h | h | h <;> exact ⟨_, h⟩

@[simp] theorem Cmd16.ofWord_op (w : CmdWord) : (Cmd16.ofWord w).op = w.extractLsb' 12 4 := rfl

@[simp] theorem Cmd16.ofWord_x (w : CmdWord) : (Cmd16.ofWord w).x = w.extractLsb' 8 4 := rfl

@[simp] theorem Cmd16.ofWord_imm8 (w : CmdWord) : (Cmd16.ofWord w).imm8 = w.extractLsb' 0 8 := rfl

/-- Bits of a field are bits of the word. -/
theorem extractLsb'_extractLsb' {m k n i : Nat} (h : i + n ≤ k) (w : BitVec m) (j : Nat) :
    (w.extractLsb' j k).extractLsb' i n = w.extractLsb' (j + i) n := by
  apply BitVec.eq_of_getLsbD_eq
  intro b _
  have hb : i + b < k := by omega
  simp [BitVec.getLsbD_extractLsb', hb, Nat.add_assoc]

/-- Widening a bit vector keeps whether it is 0. -/
theorem setWidth_eq_zero_iff {m n : Nat} (h : m ≤ n) {x : BitVec m} : x.setWidth n = 0#n ↔ x = 0#m := by
  rw [← BitVec.toNat_inj, ← BitVec.toNat_inj, BitVec.toNat_setWidth_of_le h, BitVec.toNat_zero, BitVec.toNat_zero]

end Sys2Proof

namespace Sys2Proof.Machine

/-- Illegal words, as the decoder sees them (R43). -/
theorem decode_eq_illegalOpcode {w : CmdWord} : decode w = .error .illegalOpcode ↔ IllegalWord w := by
  simp [decode_eq_error, IllegalWord, Opcode.ofCode_eq_none, -BitVec.extractLsb'_toNat]

/-- Malformed words, as the decoder sees them (R42). -/
theorem decode_eq_reservedField {w : CmdWord} : decode w = .error .reservedField ↔ MalformedWord w := by
  have hhstart : (w.extractLsb' 8 4).extractLsb' 1 3 = w.extractLsb' 9 3 := extractLsb'_extractLsb' (by decide) w 8
  have hrdacc : (w.extractLsb' 8 4).extractLsb' 2 2 = w.extractLsb' 10 2 := extractLsb'_extractLsb' (by decide) w 8
  simp [decode_eq_error, MalformedWord, Opcode.ofCode_eq_some, Opcode.exists_iff, Opcode.code, Opcode.reservedBits,
    setWidth_eq_zero_iff, imp_iff_not_or, hhstart, hrdacc]

/-! The list of the command words (R41). -/

/-- Every byte, once. -/
def allBytes : List Byte := (List.finRange 256).map BitVec.ofFin

/-- Every command, once: 3 without a byte or lane operand, 4 with a lane, and 256 each of HBYTE and TLOOK (R41). -/
def allCommands : List Instr :=
  [.hstart .w128, .hstart .w256, .hfinal] ++ [Lane.lowLane, .highLane, .lowLaneUpper, .highLaneUpper].map .rdacc ++
    (allBytes.map .hbyte ++ allBytes.map .tlook)

theorem mem_allBytes (b : Byte) : b ∈ allBytes :=
  List.mem_map.mpr ⟨b.toFin, List.mem_finRange _, rfl⟩

theorem nodup_allBytes : allBytes.Nodup :=
  (List.nodup_finRange 256).map fun _ _ h => congrArg BitVec.toFin h

theorem mem_allCommands (i : Instr) : i ∈ allCommands := by
  cases i with
  | hstart m => cases m <;> simp [allCommands]
  | hbyte b => simp [allCommands, mem_allBytes]
  | hfinal => simp [allCommands]
  | tlook x => simp [allCommands, mem_allBytes]
  | rdacc l => cases l <;> simp [allCommands]

theorem nodup_allCommands : allCommands.Nodup := by
  have hhbyte : (allBytes.map Instr.hbyte).Nodup := nodup_allBytes.map fun _ _ => Instr.hbyte.inj
  have htlook : (allBytes.map Instr.tlook).Nodup := nodup_allBytes.map fun _ _ => Instr.tlook.inj
  refine List.Nodup.append (by decide) (hhbyte.append htlook ?_) ?_
  · simp [List.Disjoint]
  · simp [List.Disjoint]

theorem length_allCommands : allCommands.length = 519 := by
  simp [allCommands, allBytes]

/-- The words of the commands, as numbers (R41). -/
theorem exists_encode_eq {w : CmdWord} :
    (∃ i, encode i = w) ↔
      w = 0x1000 ∨ w = 0x1100 ∨ (0x2000 ≤ w.toNat ∧ w.toNat ≤ 0x20FF) ∨ w = 0x3000 ∨
      (0x4000 ≤ w.toNat ∧ w.toNat ≤ 0x40FF) ∨ w = 0x5000 ∨ w = 0x5100 ∨ w = 0x5200 ∨ w = 0x5300 := by
  constructor
  · rintro ⟨i, rfl⟩
    cases i with
    | hstart m => cases m <;> decide
    | hbyte b => rw [encode_hbyte_toNat]; omega
    | hfinal => decide
    | tlook x => rw [encode_tlook_toNat]; omega
    | rdacc l => cases l <;> decide
  · rintro (rfl | rfl | h | rfl | h | rfl | rfl | rfl | rfl)
    · exact ⟨.hstart .w128, rfl⟩
    · exact ⟨.hstart .w256, rfl⟩
    · refine ⟨.hbyte (BitVec.ofNat 8 (w.toNat - 0x2000)), BitVec.eq_of_toNat_eq ?_⟩
      rw [encode_hbyte_toNat, BitVec.toNat_ofNat]
      omega
    · exact ⟨.hfinal, rfl⟩
    · refine ⟨.tlook (BitVec.ofNat 8 (w.toNat - 0x4000)), BitVec.eq_of_toNat_eq ?_⟩
      rw [encode_tlook_toNat, BitVec.toNat_ofNat]
      omega
    · exact ⟨.rdacc .lowLane, rfl⟩
    · exact ⟨.rdacc .highLane, rfl⟩
    · exact ⟨.rdacc .lowLaneUpper, rfl⟩
    · exact ⟨.rdacc .highLaneUpper, rfl⟩

/-- Settles O3: a word decodes exactly when it is a command's, so the legal words are those of the 519 commands. -/
theorem legalCommandWords : Obligations.LegalCommandWords := by
  refine ⟨⟨decode_encode (.hstart .w128), decode_encode (.hstart .w256)⟩, fun b => ?_, decode_encode .hfinal,
    fun x => ?_, ⟨decode_encode (.rdacc .lowLane), decode_encode (.rdacc .highLane),
      decode_encode (.rdacc .lowLaneUpper), decode_encode (.rdacc .highLaneUpper)⟩,
    fun _ => decode_eq_illegalOpcode.symm, fun _ => decode_eq_reservedField.symm, fun w => ?_,
    allCommands.map encode, nodup_allCommands.map encode_injective, ?_, fun w => ?_⟩
  · rw [← encode_hbyte, decode_encode]
  · rw [← encode_tlook, decode_encode]
  · simp only [decode_eq_ok_iff_encode, exists_encode_eq]
  · rw [List.length_map, length_allCommands]
  · simp [decode_eq_ok_iff_encode, mem_allCommands]

end Sys2Proof.Machine
end

section
/-! SUPPORT. What a word written to the command port does, by its bits (R42 to R44). -/

namespace Sys2Proof.Machine

/-- A word that is no command records its decode error and does nothing else (R42, R43). -/
theorem executeWord_of_error_clear {w : CmdWord} {e : DecodeError} {s : State} (herr : s.err = false)
    (hd : decode w = .error e) : executeWord w s = .next (s.raiseFault (FaultCause.ofDecodeError e) w) := by
  rw [executeWord_of_error hd, unlessErr_of_clear herr]

/-- Settles O4: the decoder refuses a malformed word as RESERVED_FIELD. -/
theorem reservedBitFaults : Obligations.ReservedBitFaults := fun _ _ herr hw =>
  executeWord_of_error_clear herr (decode_eq_reservedField.mpr hw)

/-- The state after reset, but for a RESULT that no table entry and no cleared accumulator equals. -/
def resetWithResult : State := State.reset.setResult 0x100

theorem zext64_ne (b : Byte) : zext64 b ≠ 0x100 := by
  intro h
  have hb : (b.setWidth 64).toNat = 0x100 := congrArg BitVec.toNat h
  rw [BitVec.toNat_setWidth_of_le (by decide)] at hb
  omega

/-- No command is a no-op: with no invocation open HBYTE and HFINAL fault, and the others write ACTIVE or RESULT. -/
theorem action_resetWithResult_ne (i : Instr) : action i resetWithResult ≠ resetWithResult := by
  cases i with
  | hstart m => exact fun h => Bool.noConfusion (congrArg State.active h)
  | hbyte b => exact fun h => Bool.noConfusion (congrArg State.err h)
  | hfinal => exact fun h => Bool.noConfusion (congrArg State.err h)
  | tlook x => exact fun h => zext64_ne _ (congrArg State.result h)
  | rdacc l => cases l <;> exact fun h => absurd (congrArg State.result h) (by decide)

/-- Settles O5: the decoder refuses an illegal word as ILLEGAL_OPCODE, and every command changes one state. -/
theorem illegalOpcodeFaults : Obligations.IllegalOpcodeFaults := by
  refine ⟨fun _ _ herr hw => executeWord_of_error_clear herr (decode_eq_illegalOpcode.mpr hw), by decide, fun i => ?_⟩
  refine ⟨resetWithResult, action i resetWithResult, rfl, ?_, action_resetWithResult_ne i⟩
  rw [exec_eq_unlessErr, unlessErr_of_clear rfl]

/-- A word that is neither illegal nor malformed is a command: the opcode is legal and its operands are read from the
fields (R40, R44). -/
theorem decode_of_legal {w : CmdWord} (hillegal : ¬ IllegalWord w) (hmalformed : ¬ MalformedWord w) :
    ∃ o : Opcode, w.extractLsb' 12 4 = o.code ∧ decode w = .ok (o.instr (Cmd16.ofWord w)) := by
  cases hd : decode w with
  | error e =>
    cases e with
    | illegalOpcode => exact absurd (decode_eq_illegalOpcode.mp hd) hillegal
    | reservedField => exact absurd (decode_eq_reservedField.mp hd) hmalformed
  | ok i =>
    obtain ⟨o, hop, -, rfl⟩ := decode_eq_ok.mp hd
    exact ⟨o, Opcode.code_of_ofCode hop, rfl⟩

/-- Settles O6, branch by branch of the pseudocode. -/
theorem executeFollowsPseudocode : Obligations.ExecuteFollowsPseudocode := by
  intro w s
  by_cases herr : s.err = true
  · rw [if_pos herr, executeWord_eq_unlessErr, unlessErr_of_err herr]
  rw [if_neg herr]
  rw [Bool.not_eq_true] at herr
  by_cases hillegal : IllegalWord w
  · rw [if_pos hillegal]
    exact executeWord_of_error_clear herr (decode_eq_illegalOpcode.mpr hillegal)
  rw [if_neg hillegal]
  by_cases hmalformed : MalformedWord w
  · rw [if_pos hmalformed]
    exact executeWord_of_error_clear herr (decode_eq_reservedField.mpr hmalformed)
  rw [if_neg hmalformed]
  obtain ⟨o, hop, hd⟩ := decode_of_legal hillegal hmalformed
  have hwidth : (w.extractLsb' 8 4).extractLsb' 0 1 = w.extractLsb' 8 1 := extractLsb'_extractLsb' (by decide) w 8
  have hlane : (w.extractLsb' 8 4).extractLsb' 0 2 = w.extractLsb' 8 2 := extractLsb'_extractLsb' (by decide) w 8
  rw [executeWord_of_ok hd, hop]
  cases o <;> simp [Opcode.instr, Opcode.code, hwidth, hlane]

/-- Settles O7: the step takes the write alone, and Execute of a command's word is its exec. -/
theorem stepRunsDecodedCommand : Obligations.StepRunsDecodedCommand := by
  intro s w rest i hhost hd _
  rw [step_of_cons hhost, takeAction, executeWord_of_ok hd]
  rfl

end Sys2Proof.Machine
end

section
/-! SUPPORT. The assembler's lines (R46) and the expansion of the hash lines (R47). -/

namespace Sys2Proof.Machine

/-! An operand in range is read as its number, and any other is refused (R46). -/

theorem byteOperand_of_le {n : Nat} (h : n ≤ 0xFF) : byteOperand n = some (BitVec.ofNat 8 n) :=
  if_pos (by omega)

theorem byteOperand_eq_none {n : Nat} : byteOperand n = none ↔ 256 ≤ n := by
  simp [byteOperand]

theorem byteOperands_eq_none {x : List Nat} : byteOperands x = none ↔ ∃ n ∈ x, 256 ≤ n := by
  induction x with
  | nil => simp [byteOperands]
  | cons n ns ih =>
    rw [List.exists_mem_cons_iff, ← ih, ← byteOperand_eq_none, byteOperands]
    cases byteOperand n <;> cases byteOperands ns <;> simp

theorem widthOperand_eq_none {n : Nat} : widthOperand n = none ↔ n ≠ 128 ∧ n ≠ 256 := by
  unfold widthOperand
  split_ifs <;> simp [*]

theorem laneOperand_eq_none {n : Nat} : laneOperand n = none ↔ 4 ≤ n := by
  simp [laneOperand]

/-- The assembler refuses a line exactly when an operand is out of range (R46, R47). -/
theorem assemble_eq_none {line : AsmLine} : assemble line = none ↔ line.wellFormed = false := by
  cases line with
  | hstart width => simp [assemble, AsmLine.wellFormed, widthOperand_eq_none]
  | hbyte b => simp [assemble, AsmLine.wellFormed, byteOperand_eq_none]
  | hfinal => simp [assemble, AsmLine.wellFormed]
  | tlook i => simp [assemble, AsmLine.wellFormed, byteOperand_eq_none]
  | rdacc lane => simp [assemble, AsmLine.wellFormed, laneOperand_eq_none]
  | hash128 x => simp [assemble, AsmLine.wellFormed, byteOperands_eq_none]
  | hash256 x => simp [assemble, AsmLine.wellFormed, byteOperands_eq_none]

/-- What the assembler spells is the words of some commands (R46, R47). -/
theorem exists_commands_of_assemble {line : AsmLine} {ws : List CmdWord} (h : assemble line = some ws) :
    ∃ is : List Instr, ws = is.map encode := by
  cases line with
  | hstart width => obtain ⟨m, -, rfl⟩ := Option.map_eq_some_iff.mp h; exact ⟨[.hstart m], rfl⟩
  | hbyte b => obtain ⟨b, -, rfl⟩ := Option.map_eq_some_iff.mp h; exact ⟨[.hbyte b], rfl⟩
  | hfinal => obtain rfl := Option.some.inj h; exact ⟨[.hfinal], rfl⟩
  | tlook i => obtain ⟨i, -, rfl⟩ := Option.map_eq_some_iff.mp h; exact ⟨[.tlook i], rfl⟩
  | rdacc lane => obtain ⟨l, -, rfl⟩ := Option.map_eq_some_iff.mp h; exact ⟨[.rdacc l], rfl⟩
  | hash128 x => obtain ⟨bs, -, rfl⟩ := Option.map_eq_some_iff.mp h; exact ⟨hashCommands .w128 bs, rfl⟩
  | hash256 x => obtain ⟨bs, -, rfl⟩ := Option.map_eq_some_iff.mp h; exact ⟨hashCommands .w256 bs, rfl⟩

/-- Widening a byte that a number gives. -/
theorem setWidth_ofNat_byte {n : Nat} (h : n ≤ 0xFF) : (BitVec.ofNat 8 n).setWidth 16 = BitVec.ofNat 16 n := by
  apply BitVec.eq_of_toNat_eq
  simp only [BitVec.toNat_setWidth, BitVec.toNat_ofNat]
  omega

/-- Settles O9: the encoding of each line, and the two facts about every line. -/
theorem assemblerSpellsLegalWords : Obligations.AssemblerSpellsLegalWords := by
  refine ⟨⟨by decide, by decide⟩, fun b hb => ?_, by decide, fun i hi => ?_, fun l hl => ?_,
    fun _ => assemble_eq_none, fun line ws h w hw => ?_⟩
  · rw [assemble, byteOperand_of_le hb, Option.map_some, encode_hbyte, setWidth_ofNat_byte hb]
  · rw [assemble, byteOperand_of_le hi, Option.map_some, encode_tlook, setWidth_ofNat_byte hi]
  · interval_cases l <;> decide
  · obtain ⟨is, rfl⟩ := exists_commands_of_assemble h
    obtain ⟨i, -, rfl⟩ := List.mem_map.mp hw
    exact ⟨i, decode_encode i⟩

/-- The expansion's words: HSTART's, one of HBYTE for each byte, and HFINAL's (R47). -/
theorem hashWords_eq (m : Mode) (x : List Byte) :
    hashWords m x = encode (.hstart m) :: (x.map (fun b => 0x2000 ||| b.setWidth 16) ++ [encode .hfinal]) := by
  simp [hashWords, hashCommands, Function.comp_def, encode_hbyte]

/-- Settles O10: both expansions are one list of words, of HSTART with the mode's width bit first. -/
theorem hashPseudoExpansion : Obligations.HashPseudoExpansion := by
  refine ⟨hashWords_eq .w128, hashWords_eq .w256, fun m x => ?_⟩
  simp [hashWords_eq]

end Sys2Proof.Machine
end

section
/-! SUPPORT. The substitution table as built (R49), TLOOK (R51), and what the two observations TLOOK and RDACC leave
unchanged (R51, R73). -/

namespace Sys2Proof.Machine

/-! A command by its action, with and without a fault (R79). -/

theorem exec_of_err {s : State} (h : s.err = true) (i : Instr) : exec i s = .next s := by
  rw [exec_eq_unlessErr, unlessErr_of_err h]

theorem exec_of_clear {s : State} (h : s.err = false) (i : Instr) : exec i s = .next (action i s) := by
  rw [exec_eq_unlessErr, unlessErr_of_clear h]

/-! The table of the build (R3, R14, R49). -/

theorem isPermutation_srom (v : SboxVariant) : IsPermutation (Config.srom v) :=
  isPermutation_ofFn (Config.permOf v)

/-- S in the engine as built is the permutation that the variant selects (R14, R48). -/
theorem reset_subst (x : Byte) : State.reset.subst x = Config.permOf Config.sboxVariant x :=
  lookup_ofFn (Config.permOf Config.sboxVariant) x

/-- Settles O20: each variant's table is made from a permutation, whose inverse is the inverse of S. -/
theorem tableIsBijection : Obligations.TableIsBijection := by
  refine ⟨isPermutation_srom, isPermutation_srom Config.sboxVariant, (Config.permOf Config.sboxVariant).symm,
    fun x => ?_, fun y => ?_⟩
  · rw [reset_subst, Equiv.symm_apply_apply]
  · rw [reset_subst, Equiv.apply_symm_apply]

/-! A byte zero-extended to a word (R7), and RESULT's own address range (R28). -/

@[simp] theorem slot_zext64_zero (b : Byte) : slot (zext64 b) 0 = b := by
  change (b.setWidth 64).extractLsb' 0 8 = b
  rw [BitVec.extractLsb'_setWidth_of_le (by decide), BitVec.extractLsb'_eq_self]

/-- The 56 bits above a zero-extended byte are 0. -/
theorem zext64_upper (b : Byte) : (zext64 b).extractLsb' 8 56 = 0 := by
  ext k hk
  simp [zext64]

/-- Outside RESULT's eight addresses the read space is no view of RESULT. -/
theorem rdPort_setResult (s : State) (v : Word) {a : ReadAddr} (ha : a.toNat < 0x20 ∨ 0x28 ≤ a.toNat) :
    rdPort (s.setResult v) a = rdPort s a := by
  rcases ha with hlow | hhigh
  · have hdigest : a.toNat ≤ 0x1F := by omega
    rw [rdPort, rdPort, dif_pos hdigest, dif_pos hdigest, State.setResult_digest]
  · have hdigest : ¬ a.toNat ≤ 0x1F := by omega
    have hresult : ¬ a.toNat ≤ 0x27 := by omega
    rw [rdPort, rdPort, dif_neg hdigest, dif_neg hdigest, dif_neg hresult, dif_neg hresult]
    rfl

/-! TLOOK (R51). -/

theorem exec_tlook_of_clear {s : State} (h : s.err = false) (i : Byte) :
    exec (.tlook i) s = .next (s.setResult (zext64 (s.subst i))) :=
  exec_of_clear h (.tlook i)

/-- After TLOOK the host reads the table entry at RESULT's first address. -/
theorem rdPort_tlook (s : State) (i : Byte) :
    rdPort (s.setResult (zext64 (s.subst i))) 0x20 = lookup s.srom i :=
  (rdPort_result _ 0).trans (slot_zext64_zero (s.subst i))

/-- The index `i` returns the value `y` to the host exactly when the table's entry at `i` is `y`. -/
theorem tlook_returns_iff {s : State} (h : s.err = false) (i y : Byte) :
    (∃ t, exec (.tlook i) s = .next t ∧ rdPort t 0x20 = y) ↔ lookup s.srom i = y := by
  constructor
  · rintro ⟨t, ht, rfl⟩
    rw [exec_tlook_of_clear h] at ht
    obtain rfl := Host.Outcome.next.inj ht
    exact (rdPort_tlook s i).symm
  · exact fun hy => ⟨_, exec_tlook_of_clear h i, (rdPort_tlook s i).trans hy⟩

/-- Settles O21: TLOOK's action writes RESULT alone, and the byte it returns is the entry of the table. -/
theorem tlookReadsTable : Obligations.TlookReadsTable := by
  refine ⟨encode_tlook, fun i s herr => exec_tlook_of_clear herr i, fun i s t herr ht => ?_,
    fun s herr hperm y => ?_, fun w s herr hop hx => ?_, fun i s herr => exec_of_err herr _⟩
  · rw [exec_tlook_of_clear herr] at ht
    obtain rfl := Host.Outcome.next.inj ht
    exact ⟨zext64_upper (s.subst i), rdPort_tlook s i⟩
  · simpa only [tlook_returns_iff herr] using hperm y
  · exact reservedBitFaults w s herr (.inr (.inr (.inr (.inl ⟨hop, hx⟩))))

/-! The frame of the two observations. -/

/-- TLOOK and RDACC write RESULT or, under a fault, nothing. -/
theorem exec_observation {i : Instr} {s t : State} (hi : (∃ x, i = .tlook x) ∨ ∃ l, i = .rdacc l)
    (h : exec i s = .next t) : t = s.setResult t.result := by
  rw [exec_eq_unlessErr, unlessErr_eq_next] at h
  rcases h with ⟨-, rfl⟩ | ⟨-, rfl⟩
  · rfl
  · rcases hi with ⟨x, rfl⟩ | ⟨l, rfl⟩ <;> rfl

/-- Settles O43: an observation writes RESULT alone, which the read space shows at 0x20 to 0x27 alone. -/
theorem observationFrame : Obligations.ObservationFrame := by
  intro i s t hi h
  have ht : t = s.setResult t.result := exec_observation hi h
  refine ⟨ht, fun a ha => ?_⟩
  rw [ht, rdPort_setResult s t.result ha]

end Sys2Proof.Machine
end

section
/-! SUPPORT. Byte slots under the word operations of the lane recurrence (R52 to R54). -/

namespace Sys2Proof.Machine

/-! Bcast and Mix (R52, R53). -/

/-- Appending a byte below a vector, as a number. -/
theorem toNat_append_byte {n : Nat} (x : BitVec n) (b : Byte) : (x ++ b).toNat = 256 * x.toNat + b.toNat := by
  rw [BitVec.toNat_append, ← Nat.shiftLeft_add_eq_or_of_lt b.isLt, Nat.shiftLeft_eq, Nat.mul_comm]

@[simp] theorem slot_bcast (b : Byte) (i : Fin 8) : slot (bcast b) i = b := slot_wordOfSlots (fun _ => b) i

/-- As a number Bcast(b) is `b` in each of the eight places of base 256, which is one multiplication (R52). -/
theorem bcast_toNat (b : Byte) : (bcast b).toNat = b.toNat * 0x0101010101010101 := by
  simp only [bcast, wordOfSlots, toNat_append_byte]
  omega

theorem bcast_eq_mul (b : Byte) : bcast b = b.setWidth 64 * 0x0101010101010101 := by
  apply BitVec.eq_of_toNat_eq
  have hb : b.toNat < 256 := b.isLt
  rw [bcast_toNat, BitVec.toNat_mul, BitVec.toNat_setWidth_of_le (by decide)]
  exact (Nat.mod_eq_of_lt (by omega)).symm

/-- Settles O22: a word is its slots, and eight equal places of base 256 are one multiplication. -/
theorem broadcastFillsSlots : Obligations.BroadcastFillsSlots :=
  ⟨slot_bcast, fun b _ hw => word_ext_slot fun i => (hw i).trans (slot_bcast b i).symm, bcast_eq_mul, by decide⟩

@[simp] theorem slot_mix (acc m : Word) (b : Byte) (i : Fin 8) :
    slot (mix acc b m) i = slot acc i ^^^ b ^^^ slot m i := by
  rw [mix, slot_xor, slot_xor, slot_bcast]

/-- Settles O23: a slot of an XOR is the XOR of the slots. -/
theorem mixSlotLaw : Obligations.MixSlotLaw := ⟨fun _ _ _ => rfl, slot_mix, by decide⟩

/-- Mixing in the same byte and mask twice gives the word back. -/
theorem mix_mix (acc m : Word) (b : Byte) : mix (mix acc b m) b m = acc := by
  rw [mix, mix, xor_assoc acc, xor_assoc _ _ m, xor_cancel_right]

/-! The shifts of a micro-round (R54). -/

@[simp] theorem slot_or (v w : Word) (i : Fin 8) : slot (v ||| w) i = slot v i ||| slot w i := by
  ext k hk
  simp [slot]

/-- A shift right by 8 moves each slot down one place. -/
theorem slot_ushiftRight {i j : Fin 8} (hj : j.val = i + 1) (w : Word) : slot (w >>> 8) i = slot w j := by
  ext k hk
  have hidx : 8 + (8 * i.val + k) = 8 * j.val + k := by omega
  simp [slot, hidx]

theorem slot_ushiftRight_top (w : Word) : slot (w >>> 8) 7 = 0 := by
  ext k hk
  have hout : w.getLsbD (8 + (56 + k)) = false := BitVec.getLsbD_of_ge w _ (by omega)
  simp [slot, hout]

/-- A byte shifted left by 56 is in the top slot. -/
theorem slot_zext64_shiftLeft_top (b : Byte) : slot (zext64 b <<< 56) 7 = b := by
  ext k hk
  have hidx : 56 + k < 64 ∧ k < 64 := by omega
  simp [slot, zext64, hidx, BitVec.getLsbD_eq_getElem hk]

theorem slot_zext64_shiftLeft_below {i : Fin 8} (hi : i.val < 7) (b : Byte) : slot (zext64 b <<< 56) i = 0 := by
  ext k hk
  have hbelow : 8 * i.val + k < 56 := by omega
  simp [slot, hbelow]

/-! A micro-round, slot by slot (R54): both words move down one slot, and the byte that leaves the first enters the
second at the top, substituted. -/

variable (S : Byte → Byte) (p : Word × Word)

theorem slot_micro_fst {i j : Fin 8} (hj : j.val = i + 1) : slot (micro S p).1 i = slot p.1 j :=
  slot_ushiftRight hj p.1

theorem slot_micro_snd {i j : Fin 8} (hj : j.val = i + 1) : slot (micro S p).2 i = slot p.2 j := by
  rw [micro, slot_or, slot_ushiftRight hj, slot_zext64_shiftLeft_below (by omega)]
  exact BitVec.or_zero

theorem slot_micro_snd_top : slot (micro S p).2 7 = S (slot p.1 0) := by
  rw [micro, slot_or, slot_ushiftRight_top, slot_zext64_shiftLeft_top]
  exact BitVec.zero_or

/-! Any number of micro-rounds (R55, R56). -/

/-- A byte of the second word that has not left it is `n` slots lower after `n` rounds. -/
theorem slot_microRounds_kept {n : Nat} {k j : Fin 8} (hj : j.val = k + n) :
    slot (microRounds S n p).2 k = slot p.2 j := by
  induction n generalizing p j with
  | zero => rw [show j = k from Fin.ext hj]; rfl
  | succ n ih =>
    rw [microRounds, ih _ (j := ⟨k + n, by omega⟩) rfl]
    exact slot_micro_snd S p hj

/-- After `n` rounds slot `k` of the second word holds the byte substituted in round `k + n - 8`. -/
theorem slot_microRounds_entered {n : Nat} {k r : Fin 8} (hr : k + n = 8 + r.val) :
    slot (microRounds S n p).2 k = S (slot p.1 r) := by
  induction n generalizing p r with
  | zero => omega
  | succ n ih =>
    rw [microRounds]
    cases r using Fin.cases with
    | zero =>
      have hk : (7 : Fin 8).val = k + n := by omega
      rw [slot_microRounds_kept S _ hk, slot_micro_snd_top]
    | succ r =>
      have hr' : k + n = 8 + r.castSucc.val := by simp only [Fin.val_succ, Fin.val_castSucc] at hr ⊢; omega
      rw [ih _ hr', slot_micro_fst S p (Fin.val_succ r)]

/-- After the eight rounds every slot holds its own byte, substituted, whatever the second word was (R55, R56). -/
theorem slot_subRotFrom (h a : Word) (i : Fin 8) : slot (subRotFrom S h a) i = S (slot a i) :=
  slot_microRounds_entered S (a, h) (Nat.add_comm i 8)

@[simp] theorem slot_subRot (a : Word) (i : Fin 8) : slot (subRot S a) i = S (slot a i) := slot_subRotFrom S 0 a i

@[simp] theorem slot_laneStep (acc m : Word) (b : Byte) (i : Fin 8) :
    slot (laneStep S acc b m) i = S (slot acc i ^^^ b ^^^ slot m i) := by
  rw [laneStep, slot_subRot, slot_mix]

end Sys2Proof.Machine
end

section
/-! SUPPORT. SubRot and the lane step as functions of words (R55 to R58). -/

namespace Sys2Proof.Machine

/-- Settles O24: the slots of the result do not depend on the initial scratch word. -/
theorem scratchStartIrrelevant : Obligations.ScratchStartIrrelevant :=
  ⟨fun _ _ => rfl, fun S h a => word_ext_slot fun i => (slot_subRotFrom S h a i).trans (slot_subRot S a i).symm⟩

/-- Settles O25: the byte substituted in round r is in slot k after r + 1 + n rounds when k + n = 7. -/
theorem subRotSlotLaw : Obligations.SubRotSlotLaw :=
  ⟨slot_subRot, fun S a h r n k _ hk => slot_microRounds_entered S (a, h) (by omega)⟩

/-- A lane step is undone slot by slot: substitute back, then XOR the byte and the mask out (R58). -/
theorem slot_eq_of_laneStep {S inv : Byte → Byte} (hinv : ∀ x, inv (S x) = x) (acc m : Word) (b : Byte) (i : Fin 8) :
    slot acc i = inv (slot (laneStep S acc b m) i) ^^^ b ^^^ slot m i := by
  rw [slot_laneStep, hinv, ← slot_mix, ← slot_mix, mix_mix]

/-- The lane step of a one-to-one table is one-to-one in the accumulator (R58). -/
theorem laneStep_injective {S : Byte → Byte} (hS : Function.Injective S) (b : Byte) (m : Word) :
    Function.Injective fun acc => laneStep S acc b m := fun acc acc' h => by
  have hinv : ∀ x, Function.invFun S (S x) = x := Function.leftInverse_invFun hS
  refine word_ext_slot fun i => ?_
  rw [slot_eq_of_laneStep hinv acc m b i, slot_eq_of_laneStep hinv acc' m b i]
  exact congrArg (fun w => Function.invFun S (slot w i) ^^^ b ^^^ slot m i) h

/-- Settles O26: the slot law, and from it the inverse. -/
theorem laneStepSlotLaw : Obligations.LaneStepSlotLaw :=
  ⟨slot_laneStep, fun _ _ _ hinv => slot_eq_of_laneStep hinv, fun _ hS _ _ m b h => laneStep_injective hS.1 b m h⟩

/-- With the identity table a lane step is Mix alone. -/
theorem laneStep_of_identity {S : Byte → Byte} (hS : ∀ x, S x = x) (acc m : Word) (b : Byte) :
    laneStep S acc b m = mix acc b m :=
  word_ext_slot fun i => by rw [slot_laneStep, hS, slot_mix]

end Sys2Proof.Machine
end

section
/-! SUPPORT. The lanes against each other (R59), and HBYTE (R60). -/

namespace Sys2Proof.Machine

/-! Lane independence (R59). -/

@[simp] theorem stepLane_subst (b : Byte) (s : State) (l : Lane) : (stepLane b s l).subst = s.subst := rfl

/-- The steps of two lanes can be done in either order. -/
theorem stepLane_comm (b : Byte) (s : State) (l k : Lane) :
    stepLane b (stepLane b s l) k = stepLane b (stepLane b s k) l := by
  by_cases hlk : l = k
  · rw [hlk]
  have hacc : (stepLane b (stepLane b s l) k).acc = (stepLane b (stepLane b s k) l).acc := by
    refine LaneFile.ext_get fun j => ?_
    by_cases hjk : j = k
    · simp [hjk, Ne.symm hlk]
    · simp [hjk, hlk]
  exact congrArg (fun acc => { s with acc := acc }) hacc

/-- Settles O27: a lane's step reads and writes its own lane, so the steps commute and their order is free. -/
theorem lanesAreIndependent : Obligations.LanesAreIndependent := by
  refine ⟨fun s s' l b hsrom hacc => ?_, fun s l k b hkl => ?_, fun s l b => stepLane_eq b s l,
    fun s b ls hperm => ?_⟩
  · simp [State.subst_congr hsrom, hacc]
  · rw [stepLane_get, if_neg hkl]
  · exact hperm.foldl_eq' (fun l _ k _ t => stepLane_comm b t l k) s

/-! HBYTE with no fault standing (R60). -/

theorem exec_hbyte_of_active {s : State} (herr : s.err = false) (hactive : s.active = true) (b : Byte) :
    exec (.hbyte b) s = .next (foldByte b s) := by
  rw [exec_of_clear herr, action, whenActive_of_active hactive]

theorem exec_hbyte_of_idle {s : State} (herr : s.err = false) (hactive : s.active = false) (b : Byte) :
    exec (.hbyte b) s = .next (s.raiseFault .noInvocationByte (encode (.hbyte b))) := by
  rw [exec_of_clear herr, action, whenActive_of_idle hactive]

/-- The accumulators after the fold in the 128-bit mode: lanes 0 and 1 stepped, the others kept. -/
theorem foldByte_acc_w128 {s : State} (hmode : s.mode = .w128) (b : Byte) :
    (foldByte b s).acc = { s.acc with
      lowLane := laneStep s.subst s.acc.lowLane b (mask .lowLane)
      highLane := laneStep s.subst s.acc.highLane b (mask .highLane) } :=
  LaneFile.ext_get fun l => by rw [foldByte_get, hmode]; cases l <;> rfl

/-- The accumulators after the fold in the 256-bit mode: all four stepped. -/
theorem foldByte_acc_w256 {s : State} (hmode : s.mode = .w256) (b : Byte) :
    (foldByte b s).acc =
      { lowLane := laneStep s.subst s.acc.lowLane b (mask .lowLane)
        highLane := laneStep s.subst s.acc.highLane b (mask .highLane)
        lowLaneUpper := laneStep s.subst s.acc.lowLaneUpper b (mask .lowLaneUpper)
        highLaneUpper := laneStep s.subst s.acc.highLaneUpper b (mask .highLaneUpper) } :=
  LaneFile.ext_get fun l => by rw [foldByte_get, hmode]; cases l <;> rfl

/-- A slot of an active lane after the fold. -/
theorem slot_foldByte_get {s : State} {l : Lane} (hl : l ∈ activeLanes s.mode) (b : Byte) (i : Fin 8) :
    slot ((foldByte b s).acc.get l) i = s.subst (slot (s.acc.get l) i ^^^ b ^^^ slot (mask l) i) := by
  rw [foldByte_get, if_pos hl, slot_laneStep]

/-- Under the identity table the same byte folded twice cancels. -/
theorem foldByte_foldByte_of_identity {s : State} (hid : ∀ x, s.subst x = x) (b : Byte) :
    (foldByte b (foldByte b s)).acc = s.acc := by
  refine LaneFile.ext_get fun l => ?_
  rw [foldByte_get, foldByte_get, foldByte_mode, foldByte_subst]
  by_cases hl : l ∈ activeLanes s.mode
  · rw [if_pos hl, if_pos hl, laneStep_of_identity hid, laneStep_of_identity hid, mix_mix]
  · rw [if_neg hl, if_neg hl]

/-- Settles O28, clause by clause from the accumulators that the fold leaves. -/
theorem hbyteFoldsActiveLanes : Obligations.HbyteFoldsActiveLanes := by
  refine ⟨encode_hbyte, fun b s herr hactive hmode => ?_, fun b s herr hactive hmode => ?_,
    fun b s herr hidle => exec_hbyte_of_idle herr hidle b,
    fun w s herr hop hx => reservedBitFaults w s herr (.inr (.inl ⟨hop, hx⟩)),
    fun b s herr => exec_of_err herr _, fun s t l i herr hactive hl ht => ?_,
    fun b s t u herr hactive hid ht hu => ?_⟩
  · rw [exec_hbyte_of_active herr hactive, foldByte_eq, foldByte_acc_w128 hmode]; rfl
  · rw [exec_hbyte_of_active herr hactive, foldByte_eq, foldByte_acc_w256 hmode]; rfl
  · rw [exec_hbyte_of_active herr hactive] at ht
    obtain rfl := Host.Outcome.next.inj ht
    rw [slot_foldByte_get hl, xor_zero]
    exact ⟨rfl, fun hmask => by rw [hmask, LawfulXor.xor_self]⟩
  · rw [exec_hbyte_of_active herr hactive] at ht
    obtain rfl := Host.Outcome.next.inj ht
    rw [exec_hbyte_of_active (by simpa using herr) (by simpa using hactive)] at hu
    obtain rfl := Host.Outcome.next.inj hu
    exact foldByte_foldByte_of_identity hid b

/-! HBYTE's frame (R60, R78). -/

/-- The read space is no view of the accumulators (R28). -/
theorem rdPort_foldByte (b : Byte) (s : State) (a : ReadAddr) : rdPort (foldByte b s) a = rdPort s a := by
  rw [foldByte_eq]; rfl

/-- Below STATUS the read space is no view of the fault record (R28). -/
theorem rdPort_raiseFault {a : ReadAddr} (ha : a.toNat < 0x28) (s : State) (c : FaultCause) (w : CmdWord) :
    rdPort (s.raiseFault c w) a = rdPort s a := by
  have hresult : a.toNat ≤ 0x27 := by omega
  simp only [rdPort, dif_pos hresult]
  rfl

/-- Settles O29: HBYTE is ignored, folds its byte, or writes the fault record. -/
theorem hbyteFrame : Obligations.HbyteFrame := by
  intro b s t h
  rw [exec_eq_unlessErr, unlessErr_eq_next] at h
  rcases h with ⟨-, rfl⟩ | ⟨-, rfl⟩
  · simp
  cases hactive : s.active with
  | true =>
    rw [action, whenActive_of_active hactive]
    refine ⟨by simp [hactive], fun l hl => foldByte_get_inactive hl b, fun _ => ?_, nofun⟩
    simp [rdPort_foldByte]
  | false =>
    rw [action, whenActive_of_idle hactive]
    exact ⟨by simp [hactive], fun _ _ => rfl, nofun,
      fun _ => ⟨rfl, fun a ha => rdPort_raiseFault ha s _ _⟩⟩

end Sys2Proof.Machine
end

section
/-! SUPPORT. A sequence of HBYTEs in an open invocation, and its closed form (R61). -/

namespace Sys2Proof.Machine

/-- A command's own word executes the command. -/
theorem executeWord_encode (i : Instr) (s : State) : executeWord (encode i) s = exec i s :=
  executeWord_of_ok (decode_encode i) s

/-- HSTART leaves 0 in every slot of every lane (R62). -/
theorem slot_hstart_get (m : Mode) (s : State) (l : Lane) (i : Fin 8) :
    slot ((action (.hstart m) s).acc.get l) i = 0 :=
  (congrArg (slot · i) (LaneFile.get_zero l)).trans (slot_zero i)

/-- The bytes `x` folded one after another. -/
def foldBytes (x : List Byte) (s : State) : State := x.foldl (fun t b => foldByte b t) s

@[simp] theorem foldBytes_nil (s : State) : foldBytes [] s = s := rfl

@[simp] theorem foldBytes_cons (b : Byte) (x : List Byte) (s : State) :
    foldBytes (b :: x) s = foldBytes x (foldByte b s) := rfl

/-- The words of some HBYTEs, executed in an open invocation, fold their bytes and complete. -/
theorem executeAll_hbytes {s : State} (herr : s.err = false) (hactive : s.active = true) (x : List Byte) :
    executeAll (x.map fun b => encode (.hbyte b)) s = .next (foldBytes x s) := by
  induction x generalizing s with
  | nil => rfl
  | cons b x ih =>
    rw [List.map_cons, executeAll_cons_eq_next]
    exact ⟨foldByte b s, by rw [executeWord_encode, exec_hbyte_of_active herr hactive],
      ih (by simpa using herr) (by simpa using hactive)⟩

/-- HSTART's word and then those of some HBYTEs fold the bytes into the invocation just opened (R62). -/
theorem executeAll_hstart_hbytes {s : State} (herr : s.err = false) (m : Mode) (x : List Byte) :
    executeAll (encode (.hstart m) :: x.map fun b => encode (.hbyte b)) s =
      .next (foldBytes x (action (.hstart m) s)) :=
  executeAll_cons_eq_next.mpr ⟨action (.hstart m) s, by rw [executeWord_encode, exec_of_clear herr],
    executeAll_hbytes (s := action (.hstart m) s) herr rfl x⟩

/-- Every slot of an active lane goes through the single-byte recurrence of R61, from whatever byte it holds. -/
theorem slot_foldBytes_get {s : State} {l : Lane} (hl : l ∈ activeLanes s.mode) (x : List Byte) (i : Fin 8) :
    slot ((foldBytes x s).acc.get l) i =
      x.foldl (fun c b => s.subst (c ^^^ b ^^^ slot (mask l) i)) (slot (s.acc.get l) i) := by
  induction x generalizing s with
  | nil => rfl
  | cons b x ih =>
    rw [foldBytes_cons, ih (by simpa using hl), foldByte_subst, slot_foldByte_get hl, List.foldl_cons]

/-- Slot `i` of MASK[l] is the seed byte 8l + i (R11, R12). -/
theorem slot_mask (l : Lane) (i : Fin 8) : slot (mask l) i = BitVec.ofNat 8 (8 * l.toBits.toNat + i) := by
  rw [← slot_mask_toNat, BitVec.ofNat_toNat, BitVec.setWidth_eq]

/-- Settles O30: HSTART clears every slot, and the HBYTEs take each through the recurrence with its seed byte. -/
theorem laneClosedForm : Obligations.LaneClosedForm := by
  intro m x s herr
  refine ⟨_, executeAll_hstart_hbytes herr m x, fun l hl i => ⟨?_, slot_mask l i⟩⟩
  rw [slot_foldBytes_get hl, slot_hstart_get, slot_mask]
  rfl

end Sys2Proof.Machine
end

section
/-! SUPPORT. HSTART (R62), the serializer and the finalizers (R63 to R65), HFINAL (R66), and what the two commands leave
unchanged. -/

namespace Sys2Proof.Machine

/-! HSTART (R62). -/

theorem exec_hstart_of_clear {s : State} (herr : s.err = false) (m : Mode) :
    exec (.hstart m) s = .next (action (.hstart m) s) :=
  exec_of_clear herr (.hstart m)

/-- HSTART writes the accumulators, MODE, ACTIVE, DONE and DIGEST and nothing else. -/
theorem action_hstart_eq (m : Mode) (s : State) :
    action (.hstart m) s =
      { s with acc := LaneFile.zero, mode := m, active := true, done := false, digest := Digest.zero } := rfl

/-- STATUS in an open 256-bit invocation of a paper build without a fault (R23). -/
theorem statusByte_opened_w256 {s : State} (hvariant : s.variant = .paper) (herr : s.err = false) :
    statusByte (action (.hstart .w256) s) = 0x05 := by
  rw [action_hstart_eq, statusByte, hvariant, herr]
  dsimp only
  decide

/-- Settles O31: HSTART's action is the same in every state without a fault, an open invocation or not. -/
theorem hstartOpensInvocation : Obligations.HstartOpensInvocation := by
  refine ⟨⟨by decide, by decide⟩, fun m s herr => exec_hstart_of_clear herr m,
    fun w s herr hop hres => reservedBitFaults w s herr (.inl ⟨hop, hres⟩), fun m s herr => exec_of_err herr _,
    fun s t herr hvariant ht => ?_⟩
  rw [exec_hstart_of_clear herr] at ht
  obtain rfl := Host.Outcome.next.inj ht
  exact statusByte_opened_w256 hvariant herr

/-! The serializer and the finalizers (R63 to R65). -/

@[simp] theorem ser_getElem (w : Word) (k : Fin 8) : (ser w)[k.val] = slot w k := by
  fin_cases k <;> rfl

/-- A lane serialized behind `n` bytes. -/
theorem append_ser_getElem {n : Nat} (xs : Vector Byte n) (w : Word) (k : Fin 8) :
    (xs ++ ser w)[n + k.val] = slot w k := by
  simp [Vector.getElem_append_right]

/-- Settles O32: byte k of a serialized lane is its slot k, and each finalizer is serialized lanes one after another. -/
theorem finalizerBytes : Obligations.FinalizerBytes := by
  refine ⟨ser_getElem, by decide, fun f k => ⟨?_, append_ser_getElem (ser f.lowLane) f.highLane k⟩,
    fun f k => ⟨?_, ?_, ?_, append_ser_getElem _ f.highLane k⟩⟩
  · exact (Vector.getElem_append_left k.isLt).trans (ser_getElem f.lowLane k)
  · rw [final256, Vector.getElem_append_left (by omega), Vector.getElem_append_left (by omega),
      Vector.getElem_append_left k.isLt]
    exact ser_getElem f.highLaneUpper k
  · rw [final256, Vector.getElem_append_left (by omega), Vector.getElem_append_left (by omega)]
    exact append_ser_getElem _ f.lowLaneUpper k
  · rw [final256, Vector.getElem_append_left (by omega)]
    exact append_ser_getElem _ f.lowLane k

/-! HFINAL (R66). -/

theorem exec_hfinal_of_active {s : State} (herr : s.err = false) (hactive : s.active = true) :
    exec .hfinal s = .next (closeInvocation s) := by
  rw [exec_of_clear herr, action, whenActive_of_active hactive]

theorem exec_hfinal_of_idle {s : State} (herr : s.err = false) (hactive : s.active = false) :
    exec .hfinal s = .next (s.raiseFault .noInvocationFinal (encode .hfinal)) := by
  rw [exec_of_clear herr, action, whenActive_of_idle hactive]

theorem finalDigest_w128_low (f : LaneFile) (k : Fin 16) : (finalDigest .w128 f)[k.val] = (final128 f)[k] :=
  Vector.getElem_append_left k.isLt

theorem finalDigest_w128_high (f : LaneFile) (k : Fin 16) : (finalDigest .w128 f)[16 + k.val] = 0x00 :=
  (Vector.getElem_append_right (by omega) (by omega)).trans (Vector.getElem_replicate _)

/-- Cleared lanes give the all-zero digest, in both modes. -/
theorem finalDigest_zero (m : Mode) : finalDigest m LaneFile.zero = Digest.zero := by
  cases m <;> decide

/-- Settles O33: in an open invocation HFINAL closes it, and after HSTART the lanes it serializes are 0. -/
theorem hfinalWritesDigest : Obligations.HfinalWritesDigest := by
  refine ⟨by decide, fun s herr hactive => ?_, fun s herr hactive => exec_hfinal_of_idle herr hactive,
    fun w s herr hop hres => reservedBitFaults w s herr (.inr (.inr (.inl ⟨hop, hres⟩))),
    fun s herr => exec_of_err herr _, fun m s t u herr ht hu => ?_⟩
  · refine ⟨finalDigest s.mode s.acc, exec_hfinal_of_active herr hactive, fun hmode => ?_, fun hmode k => ?_⟩
    · rw [hmode]
      exact ⟨finalDigest_w128_low s.acc, finalDigest_w128_high s.acc⟩
    · rw [hmode, finalDigest_w256]
  · rw [exec_hstart_of_clear herr] at ht
    obtain rfl := Host.Outcome.next.inj ht
    rw [exec_hfinal_of_active (s := action (.hstart m) s) herr rfl] at hu
    obtain rfl := Host.Outcome.next.inj hu
    exact ⟨finalDigest_zero m, rfl⟩

/-! The frame of HSTART and HFINAL (R62, R66, R78). -/

/-- Above the digest and apart from STATUS the read space shows RESULT and the fault record alone (R28). -/
theorem rdPort_congr_above_digest {s t : State} (hresult : t.result = s.result) (hcode : t.errcode = s.errcode)
    (hcmd : t.errcmd = s.errcmd) {a : ReadAddr} (ha : 0x20 ≤ a.toNat) (hstatus : a.toNat ≠ 0x28) :
    rdPort t a = rdPort s a := by
  have hdigest : ¬ a.toNat ≤ 0x1F := by omega
  simp only [rdPort, dif_neg hdigest, if_neg hstatus, hresult, hcode, hcmd]

/-- Settles O34: each command is ignored, faults, or writes what its action names. -/
theorem hstartHfinalFrame : Obligations.HstartHfinalFrame := by
  refine ⟨fun m s t h => ?_, fun s t h => ?_⟩
  · rw [exec_eq_unlessErr, unlessErr_eq_next] at h
    rcases h with ⟨-, rfl⟩ | ⟨-, rfl⟩
    · simp
    · exact ⟨rfl, rfl, rfl, rfl, rfl, rfl, rfl, rfl,
        fun a => rdPort_congr_above_digest (s := s) (t := action (.hstart m) s) rfl rfl rfl⟩
  · rw [exec_eq_unlessErr, unlessErr_eq_next] at h
    rcases h with ⟨-, rfl⟩ | ⟨-, rfl⟩
    · simp
    cases hactive : s.active with
    | true =>
      rw [action, whenActive_of_active hactive]
      exact ⟨rfl, rfl, rfl, rfl, rfl, rfl, rfl,
        fun _ => ⟨rfl, rfl, rfl,
          fun a => rdPort_congr_above_digest (s := s) (t := closeInvocation s) rfl rfl rfl⟩, nofun⟩
    | false =>
      rw [action, whenActive_of_idle hactive]
      exact ⟨rfl, rfl, rfl, rfl, rfl, rfl, rfl, nofun,
        fun _ => ⟨hactive, rfl, rfl, fun a ha => rdPort_raiseFault ha s _ _⟩⟩

end Sys2Proof.Machine
end

section
/-! SUPPORT. The whole-buffer transactions (R67, R68) and their digests (R69 to R72). -/

namespace Sys2Proof.Machine

/-! The words of a transaction, executed (R47). -/

/-- HBYTEs write accumulators and nothing else. -/
theorem foldBytes_eq (x : List Byte) (s : State) : foldBytes x s = { s with acc := (foldBytes x s).acc } := by
  induction x generalizing s with
  | nil => rfl
  | cons b x ih => rw [foldBytes_cons, ih, foldByte_eq b s]

/-- HBYTEs leave the accumulator of a lane that the mode does not use (R60). -/
theorem foldBytes_get_inactive {s : State} {l : Lane} (hl : l ∉ activeLanes s.mode) (x : List Byte) :
    (foldBytes x s).acc.get l = s.acc.get l := by
  induction x generalizing s with
  | nil => rfl
  | cons b x ih => rw [foldBytes_cons, ih (by simpa using hl), foldByte_get_inactive hl]

/-- The accumulators after HSTART and the HBYTEs of `x`. -/
def hashAcc (m : Mode) (x : List Byte) (s : State) : LaneFile := (foldBytes x (action (.hstart m) s)).acc

/-- The state a whole transaction leaves: RESULT, the fault record, the build and the host's fields are kept. -/
def hashState (m : Mode) (x : List Byte) (s : State) : State :=
  { s with
    acc := hashAcc m x s
    mode := m
    active := false
    done := true
    digest := finalDigest m (hashAcc m x s) }

theorem executeAll_append {ws vs : List CmdWord} {s t : State} (ht : executeAll ws s = .next t) :
    executeAll (ws ++ vs) s = executeAll vs t := by
  induction ws generalizing s with
  | nil =>
    obtain rfl : s = t := Host.Outcome.next.inj ht
    rfl
  | cons w ws ih =>
    obtain ⟨u, hu, hrest⟩ := executeAll_cons_eq_next.mp ht
    rw [List.cons_append, executeAll, hu]
    exact ih hrest

/-- From a state without a fault a transaction completes (R67, R68). -/
theorem executeAll_hashWords {s : State} (herr : s.err = false) (m : Mode) (x : List Byte) :
    executeAll (hashWords m x) s = .next (hashState m x s) := by
  have hwords : hashWords m x = (encode (.hstart m) :: x.map fun b => encode (.hbyte b)) ++ [encode .hfinal] := by
    simp [hashWords, hashCommands, Function.comp_def]
  rw [hwords, executeAll_append (executeAll_hstart_hbytes herr m x), foldBytes_eq, executeAll_cons_eq_next]
  refine ⟨hashState m x s, ?_, rfl⟩
  rw [executeWord_encode, exec_hfinal_of_active (by exact herr) rfl]
  rfl

/-- A transaction's state is the one it leaves. -/
theorem eq_hashState {s t : State} {m : Mode} {x : List Byte} (herr : s.err = false)
    (ht : executeAll (hashWords m x) s = .next t) : t = hashState m x s :=
  Host.Outcome.next.inj (ht.symm.trans (executeAll_hashWords herr m x))

/-! The accumulators of a transaction, from the input and the table alone (R61). -/

/-- Each slot of an active lane is the single-byte recurrence with the slot's seed byte. -/
theorem slot_hashAcc_get {m : Mode} {l : Lane} (hl : l ∈ activeLanes m) (x : List Byte) (s : State) (i : Fin 8) :
    slot ((hashAcc m x s).get l) i = pearson s.subst (slot (mask l) i) x := by
  rw [hashAcc, slot_foldBytes_get (s := action (.hstart m) s) hl, slot_hstart_get]
  rfl

theorem hashAcc_get_inactive {m : Mode} {l : Lane} (hl : l ∉ activeLanes m) (x : List Byte) (s : State) :
    (hashAcc m x s).get l = 0 := by
  rw [hashAcc, foldBytes_get_inactive (s := action (.hstart m) s) hl]
  exact LaneFile.get_zero l

theorem hashAcc_congr {s s' : State} (hsrom : s'.srom = s.srom) (m : Mode) (x : List Byte) :
    hashAcc m x s' = hashAcc m x s := by
  refine LaneFile.ext_get fun l => ?_
  by_cases hl : l ∈ activeLanes m
  · exact word_ext_slot fun i => by rw [slot_hashAcc_get hl, slot_hashAcc_get hl, State.subst_congr hsrom]
  · rw [hashAcc_get_inactive hl, hashAcc_get_inactive hl]

/-! The digest the host reads (R64 to R68). -/

/-- The reads of a transaction are the first bytes of DIGEST. -/
theorem readDigest_eq_take (m : Mode) (s : State) : readDigest m s = s.digest.toList.take (digestLength m) := by
  have hlen : digestLength m ≤ 32 := by cases m <;> decide
  refine List.ext_getElem (by simp [readDigest, hlen]) fun k hk _ => ?_
  have hk32 : k < 32 := lt_of_lt_of_le (by simpa [readDigest] using hk) hlen
  simpa [readDigest] using rdPort_digest s ⟨k, hk32⟩

theorem readDigest_w128 {s : State} {f : LaneFile} (h : s.digest = finalDigest .w128 f) :
    readDigest .w128 s = (final128 f).toList := by
  rw [readDigest_eq_take, h, finalDigest_w128_toList]
  exact List.take_left' (final128 f).length_toList

theorem readDigest_w256 {s : State} {f : LaneFile} (h : s.digest = finalDigest .w256 f) :
    readDigest .w256 s = (final256 f).toList := by
  rw [readDigest_eq_take, h, finalDigest_w256]
  exact List.take_of_length_le (final256 f).length_toList.le

/-- Settles O35: both clauses are read off the state a transaction leaves; in the second the invariant makes the two
fault records agree. -/
theorem transactionResult : Obligations.TransactionResult := by
  refine ⟨fun m x s herr => ?_, fun m x s s' t t' hinv hinv' herr herr' hsrom hvariant ht ht' => ?_⟩
  · refine ⟨hashState m x s, executeAll_hashWords herr m x, rfl, rfl, rfl, herr, rfl, rfl, ?_, ?_⟩
    · rintro rfl
      exact readDigest_w128 rfl
    · rintro rfl
      exact readDigest_w256 rfl
  · obtain rfl := eq_hashState herr ht
    obtain rfl := eq_hashState herr' ht'
    obtain ⟨hcode, hcmd⟩ := hinv.clean herr
    obtain ⟨hcode', hcmd'⟩ := hinv'.clean herr'
    simp only [hashState, hashAcc_congr hsrom.symm, hsrom, hvariant, herr, herr', hcode, hcmd, hcode', hcmd']

/-! The digest in closed form (R71). -/

/-- The lanes whose slots make up a digest, in the order of its bytes (R64, R65). -/
def digestLanes : Mode → List Lane
  | .w128 => [.lowLane, .highLane]
  | .w256 => [.highLaneUpper, .lowLaneUpper, .lowLane, .highLane]

/-- The seed byte of each digest byte: the mask's slot in the same lane (R71). -/
def digestSeeds (m : Mode) : List Byte := (digestLanes m).flatMap fun l => List.ofFn (slot (mask l))

theorem mem_activeLanes_of_mem_digestLanes {m : Mode} {l : Lane} (hl : l ∈ digestLanes m) : l ∈ activeLanes m := by
  cases m with
  | w128 => exact hl
  | w256 => cases l <;> decide

/-- A digest is the slots of its lanes. -/
theorem readDigest_eq_flatMap {m : Mode} {s : State} {f : LaneFile} (h : s.digest = finalDigest m f) :
    readDigest m s = (digestLanes m).flatMap fun l => List.ofFn (slot (f.get l)) := by
  cases m with
  | w128 => rw [readDigest_w128 h, final128_toList]; rfl
  | w256 => rw [readDigest_w256 h, final256_toList, List.append_assoc, List.append_assoc]; rfl

/-- Each byte of a transaction's digest is the recurrence with its own seed byte. -/
theorem readDigest_hashState (m : Mode) (x : List Byte) (s : State) :
    readDigest m (hashState m x s) = (digestSeeds m).map fun v => pearson s.subst v x := by
  rw [readDigest_eq_flatMap rfl, digestSeeds, List.map_flatMap]
  refine List.flatMap_congr fun l hl => ?_
  rw [List.map_ofFn]
  exact congrArg List.ofFn (funext (slot_hashAcc_get (mem_activeLanes_of_mem_digestLanes hl) x s))

theorem length_digestSeeds (m : Mode) : (digestSeeds m).length = digestLength m := by
  cases m <;> simp [digestSeeds, digestLanes, digestLength]

/-- The host reads at `k` the recurrence with the seed byte that stands at `k`. -/
theorem rdPort_hashState {m : Mode} {k : Nat} {v : Byte} (hv : (digestSeeds m)[k]? = some v) (x : List Byte)
    (s : State) : rdPort (hashState m x s) (BitVec.ofNat 6 k) = pearson s.subst v x := by
  have hk : k < digestLength m := by
    rw [← length_digestSeeds]
    exact (List.getElem?_eq_some_iff.mp hv).1
  have hread := congrArg (·[k]?) (readDigest_hashState m x s)
  simpa [readDigest, hk, hv] using hread

/-- Settles O38: the seed bytes in the order of the digest's bytes. -/
theorem digestClosedForm : Obligations.DigestClosedForm := by
  intro x s herr
  have h128 : ∀ k : Fin 16, (digestSeeds .w128)[k.val]? = some (BitVec.ofNat 8 k) := by decide
  have hlane3 : ∀ k : Fin 8, (digestSeeds .w256)[k.val]? = some (BitVec.ofNat 8 (24 + k)) := by decide
  have hlane2 : ∀ k : Fin 8, (digestSeeds .w256)[8 + k.val]? = some (BitVec.ofNat 8 (8 + (8 + k))) := by decide
  have hlow : ∀ k : Fin 16, (digestSeeds .w256)[16 + k.val]? = some (BitVec.ofNat 8 k) := by decide
  exact ⟨_, _, executeAll_hashWords herr .w128 x, executeAll_hashWords herr .w256 x,
    fun k => rdPort_hashState (h128 k) x s, fun k => rdPort_hashState (hlane3 k) x s,
    fun k => rdPort_hashState (hlane2 k) x s, fun k => rdPort_hashState (hlow k) x s⟩

/-! The empty input (R69), the two widths against each other (R70), and dependence on the input and the table (R72). -/

/-- When every recurrence of a digest ends in 0, the host reads zeros. -/
theorem readDigest_hashState_zero {m : Mode} {x : List Byte} {s : State} (h : ∀ v, pearson s.subst v x = 0x00) :
    readDigest m (hashState m x s) = List.replicate (digestLength m) 0x00 := by
  rw [readDigest_hashState, ← length_digestSeeds, ← List.map_const']
  exact List.map_congr_left fun v _ => h v

/-- Settles O36: the recurrence starts at 0, and under the identity table two equal bytes cancel. -/
theorem emptyInputDigest : Obligations.EmptyInputDigest := by
  refine ⟨fun m s herr => ⟨_, executeAll_hashWords herr m _, readDigest_hashState_zero fun _ => rfl⟩,
    fun m s herr hid => ⟨_, executeAll_hashWords herr m _, readDigest_hashState_zero fun v => ?_⟩⟩
  simp [pearson, State.subst, hid]

/-- Settles O37: the last two lanes of a 256-bit digest are the lanes of a 128-bit one. -/
theorem crossConsistency : Obligations.CrossConsistency := by
  intro x s herr
  refine ⟨_, _, executeAll_hashWords herr .w256 x, executeAll_hashWords herr .w128 x, ?_⟩
  have hseeds : (digestSeeds .w256).drop 16 = digestSeeds .w128 := by decide
  rw [readDigest_hashState, readDigest_hashState, ← List.map_drop, hseeds]

/-- Settles O39: the closed form names the table and the input alone; for the two tables the bytes with seed 0 of "a"
and "aa" differ. -/
theorem digestIsDeterministic : Obligations.DigestIsDeterministic := by
  refine ⟨fun m x s s' herr herr' hsrom => ?_, fun m s herr htable => ?_⟩
  · refine ⟨_, _, executeAll_hashWords herr m x, executeAll_hashWords herr' m x, ?_, ?_, ?_⟩
    · rw [readDigest_hashState, readDigest_hashState, State.subst_congr hsrom]
    · rintro rfl
      simp [readDigest, digestLength]
    · rintro rfl
      simp [readDigest, digestLength]
  · refine ⟨_, _, executeAll_hashWords herr m [0x61], executeAll_hashWords herr m [0x61, 0x61], fun h => ?_⟩
    rw [readDigest_hashState, readDigest_hashState, List.map_inj_left] at h
    have hseed : 0x00 ∈ digestSeeds m := by cases m <;> decide
    have hbyte := h _ hseed
    rcases htable with hid | hinc
    · simp [pearson, State.subst, hid] at hbyte
    · simp [pearson, State.subst, hinc] at hbyte

end Sys2Proof.Machine
end

section
/-! SUPPORT. RDACC (R73), and the digest bytes that hold no digest (R74). -/

namespace Sys2Proof.Machine

/-! RDACC (R73). -/

theorem encode_rdacc (l : Lane) : encode (.rdacc l) = 0x5000 ||| (l.toBits.setWidth 16 <<< 8) := by
  cases l <;> decide

theorem exec_rdacc_of_clear {s : State} (h : s.err = false) (l : Lane) :
    exec (.rdacc l) s = .next (s.setResult (s.acc.get l)) :=
  exec_of_clear h (.rdacc l)

/-- With no fault standing, RDACC leaves the lane's accumulator in RESULT. -/
theorem result_of_exec_rdacc {l : Lane} {s t : State} (herr : s.err = false) (h : exec (.rdacc l) s = .next t) :
    t.result = s.acc.get l := by
  rw [exec_rdacc_of_clear herr] at h
  obtain rfl := Host.Outcome.next.inj h
  rfl

/-- In the 128-bit mode the two upper lanes hold 0 (R60). -/
theorem Inv.get_upper {s : State} (h : Inv s) (hmode : s.mode = .w128) {l : Lane}
    (hl : l = .lowLaneUpper ∨ l = .highLaneUpper) : s.acc.get l = 0 := by
  obtain ⟨hlow, hhigh⟩ := h.upperZero hmode
  rcases hl with rfl | rfl
  · exact hlow
  · exact hhigh

/-- Settles O42: RESULT holds the lane after RDACC; the invariant, reset and HFINAL say what the lane holds. -/
theorem rdaccReadsLane : Obligations.RdaccReadsLane := by
  refine ⟨encode_rdacc, fun l s herr => exec_rdacc_of_clear herr l, fun l s t herr ht k => ?_,
    fun l s t hinv herr hmode hl ht => ?_, fun l s t ht => ?_, fun l s t u herr hactive ht hu => ?_,
    fun w s herr hop hres => ?_, fun l s herr => exec_of_err herr (.rdacc l)⟩
  · rw [rdPort_result, result_of_exec_rdacc herr ht]
  · rw [result_of_exec_rdacc herr ht, hinv.get_upper hmode hl]
  · rw [result_of_exec_rdacc s.applyReset_err ht, State.applyReset_acc, LaneFile.get_zero]
  · rw [exec_hfinal_of_active herr hactive] at ht
    obtain rfl := Host.Outcome.next.inj ht
    exact result_of_exec_rdacc (s := closeInvocation s) herr hu
  · exact reservedBitFaults w s herr (.inr (.inr (.inr (.inr ⟨hop, hres⟩))))

/-! Digest bytes that hold no digest (R74). -/

/-- Below 0x20 the read space shows DIGEST (R28). -/
theorem rdPort_of_lt (s : State) {a : ReadAddr} (ha : a.toNat < 0x20) : rdPort s a = s.digest[a.toNat] :=
  dif_pos (Nat.le_of_lt_succ ha)

theorem Digest.zero_getElem {k : Nat} (hk : k < 32) : Digest.zero[k] = 0x00 := Vector.getElem_replicate hk

/-- While DONE = 0 every digest byte is 0x00. -/
theorem Inv.digest_getElem_of_not_done {s : State} (h : Inv s) (hdone : s.done = false) {k : Nat} (hk : k < 32) :
    s.digest[k] = 0x00 := by
  simp only [h.blank hdone, Digest.zero_getElem]

/-- In the 128-bit mode bytes 16 to 31 are 0x00, whether the invocation is finished or not (R66). -/
theorem Inv.digest_getElem_high {s : State} (h : Inv s) (hmode : s.mode = .w128) {k : Nat} (hlow : 16 ≤ k)
    (hk : k < 32) : s.digest[k] = 0x00 := by
  cases hdone : s.done with
  | false => exact h.digest_getElem_of_not_done hdone hk
  | true =>
    obtain ⟨j, rfl⟩ := Nat.exists_eq_add_of_le hlow
    simp only [h.finished hdone, hmode]
    exact finalDigest_w128_high s.acc ⟨j, by omega⟩

/-- Settles O40: such a digest byte is 0x00 by the invariant, and the read space shows it. -/
theorem digestBytesBlank : Obligations.DigestBytesBlank := by
  intro s a hinv ha hblank
  rw [rdPort_of_lt s ha]
  rcases hblank with hdone | ⟨hmode, hlow⟩
  · exact hinv.digest_getElem_of_not_done hdone ha
  · exact hinv.digest_getElem_high hmode hlow ha

end Sys2Proof.Machine
end

section
/-! SUPPORT. The four fault causes: when a word raises each of them (R75 to R77), what the fault entry leaves (R78 to
R81), and that no transaction raises one (R88). -/

namespace Sys2Proof.Machine

/-! A fault standing: every word is ignored (R79). -/

theorem executeWord_of_err {s : State} (h : s.err = true) (w : CmdWord) : executeWord w s = .next s := by
  rw [executeWord_eq_unlessErr, unlessErr_of_err h]

theorem executeAll_of_err {s : State} (h : s.err = true) (ws : List CmdWord) : executeAll ws s = .next s := by
  induction ws with
  | nil => rfl
  | cons w ws ih => exact executeAll_cons_eq_next.mpr ⟨s, executeWord_of_err h w, ih⟩

/-- Settles O48: a word, a command and a sequence of words answer the same state; a read does not look at ERR. -/
theorem ignoredUnderFault : Obligations.IgnoredUnderFault :=
  ⟨fun w _ herr => executeWord_of_err herr w, fun i _ herr => exec_of_err herr i,
    fun ws _ herr => executeAll_of_err herr ws, fun a s _ => ⟨hostRead a s, rfl, rfl⟩⟩

/-- Settles O49: under a fault a write is ignored and a read keeps the engine's state, so only reset is left. -/
theorem onlyResetClearsFault : Obligations.OnlyResetClearsFault := by
  refine ⟨fun a s t herr ht hreset => ?_, fun s => ⟨s.applyReset, rfl, rfl, rfl, rfl⟩⟩
  cases a with
  | write w =>
    obtain rfl : s = t := Host.Outcome.next.inj ((executeWord_of_err herr w).symm.trans ht)
    exact ⟨herr, rfl, rfl⟩
  | read a =>
    obtain rfl : hostRead a s = t := Host.Outcome.next.inj ht
    exact ⟨herr, rfl, rfl⟩
  | reset => exact absurd rfl hreset

/-! No fault standing: a word faults exactly when a cause applies, and the fault entry is all it does (R75, R78). -/

/-- When a word raises the cause, in a state without a fault (R75). -/
def FaultCause.Applies : FaultCause → CmdWord → State → Prop
  | .illegalOpcode, w, _ => IllegalWord w
  | .reservedField, w, _ => MalformedWord w
  | .noInvocationByte, w, s => (∃ b, w = encode (.hbyte b)) ∧ s.active = false
  | .noInvocationFinal, w, s => w = encode .hfinal ∧ s.active = false

theorem executeWord_of_applies {c : FaultCause} {w : CmdWord} {s : State} (herr : s.err = false)
    (hc : c.Applies w s) : executeWord w s = .next (s.raiseFault c w) := by
  cases c with
  | illegalOpcode => exact executeWord_of_error_clear herr (decode_eq_illegalOpcode.mpr hc)
  | reservedField => exact executeWord_of_error_clear herr (decode_eq_reservedField.mpr hc)
  | noInvocationByte =>
    obtain ⟨⟨b, rfl⟩, hidle⟩ := hc
    rw [executeWord_encode, exec_hbyte_of_idle herr hidle]
  | noInvocationFinal =>
    obtain ⟨rfl, hidle⟩ := hc
    rw [executeWord_encode, exec_hfinal_of_idle herr hidle]

/-- A word that faults is no command, or a command that writes the fault record: HBYTE or HFINAL while idle (R76). -/
theorem exists_applies_of_fault {w : CmdWord} {s t : State} (herr : s.err = false) (h : executeWord w s = .next t)
    (hfault : t.err = true) : ∃ c : FaultCause, c.Applies w s := by
  cases hd : decode w with
  | error e =>
    cases e with
    | illegalOpcode => exact ⟨.illegalOpcode, decode_eq_illegalOpcode.mp hd⟩
    | reservedField => exact ⟨.reservedField, decode_eq_reservedField.mp hd⟩
  | ok i =>
    obtain rfl := encode_of_decode hd
    rw [executeWord_encode] at h
    obtain ⟨-, -, -, -, -, -, hwriter, -⟩ := onlyNamedWriters i s t h
    obtain ⟨-, -, hidle, ⟨b, rfl⟩ | rfl⟩ := hwriter (.inl (by simp [herr, hfault]))
    · exact ⟨.noInvocationByte, ⟨b, rfl⟩, hidle⟩
    · exact ⟨.noInvocationFinal, rfl, hidle⟩

/-- Inversion of a fault: some cause applies to the word, and the fault entry is the whole effect. -/
theorem fault_cases {w : CmdWord} {s t : State} (herr : s.err = false) (h : executeWord w s = .next t)
    (hfault : t.err = true) : ∃ c : FaultCause, c.Applies w s ∧ t = s.raiseFault c w := by
  obtain ⟨c, hc⟩ := exists_applies_of_fault herr h hfault
  exact ⟨c, hc, Host.Outcome.next.inj (h.symm.trans (executeWord_of_applies herr hc))⟩

/-- Settles O44: each of the four causes has its own code, and the fault entry records the word itself. -/
theorem onlyFourFaultCodes : Obligations.OnlyFourFaultCodes := by
  intro w s t herr h hfault
  obtain ⟨c, hc, rfl⟩ := fault_cases herr h hfault
  refine ⟨rfl, ?_⟩
  cases c with
  | illegalOpcode => exact .inl ⟨rfl, hc⟩
  | reservedField => exact .inr (.inl ⟨rfl, hc⟩)
  | noInvocationByte => exact .inr (.inr (.inl ⟨rfl, hc⟩))
  | noInvocationFinal => exact .inr (.inr (.inr ⟨rfl, hc⟩))

/-! Sequencing faults (R76). -/

/-- With no fault standing, HFINAL leaves no invocation open: it closes the open one, or faults if there is none. -/
theorem active_of_exec_hfinal {s t : State} (herr : s.err = false) (h : exec .hfinal s = .next t) :
    t.active = false := by
  cases hactive : s.active with
  | true =>
    rw [exec_hfinal_of_active herr hactive] at h
    obtain rfl := Host.Outcome.next.inj h
    rfl
  | false =>
    rw [exec_hfinal_of_idle herr hactive] at h
    obtain rfl := Host.Outcome.next.inj h
    exact hactive

/-- Only HSTART opens an invocation: HFINAL, the other command that writes ACTIVE, clears it. -/
theorem eq_hstart_of_opens {i : Instr} {s t : State} (hidle : s.active = false) (h : exec i s = .next t)
    (hopen : t.active = true) : ∃ m, i = .hstart m := by
  obtain ⟨-, -, hwriter, -⟩ := onlyNamedWriters i s t h
  rcases hwriter (by simp [hidle, hopen]) with hstart | rfl
  · exact hstart
  · cases herr : s.err with
    | true =>
      obtain rfl : s = t := Host.Outcome.next.inj ((exec_of_err herr .hfinal).symm.trans h)
      exact absurd hopen (Bool.eq_false_iff.mp hidle)
    | false => exact absurd hopen (Bool.eq_false_iff.mp (active_of_exec_hfinal herr h))

/-- Settles O45: the two commands of an open invocation fault while idle, and the other three keep ERR. -/
theorem sequencingFaults : Obligations.SequencingFaults := by
  refine ⟨fun b s herr hidle => exec_hbyte_of_idle herr hidle b, fun s herr hidle => exec_hfinal_of_idle herr hidle,
    fun i s herr hi => ⟨action i s, exec_of_clear herr i, ?_⟩, State.applyReset_active,
    fun s t herr h => active_of_exec_hfinal herr h, fun i s t hidle h hopen => eq_hstart_of_opens hidle h hopen⟩
  rcases hi with ⟨m, rfl⟩ | ⟨x, rfl⟩ | ⟨l, rfl⟩ <;> exact herr

/-! Priority (R77). -/

/-- The OP field of a command's word. -/
theorem encode_op (i : Instr) : (encode i).extractLsb' 12 4 = i.fields.op :=
  congrArg Cmd16.op (Cmd16.ofWord_toWord i.fields)

/-- A word that is neither illegal nor malformed is the word of a command of its own opcode. -/
theorem eq_encode_of_legal {w : CmdWord} {o : Opcode} (hillegal : ¬ IllegalWord w) (hmalformed : ¬ MalformedWord w)
    (hop : w.extractLsb' 12 4 = o.code) : w = encode (o.instr (Cmd16.ofWord w)) := by
  obtain ⟨o', hop', hd⟩ := decode_of_legal hillegal hmalformed
  obtain rfl : o' = o := by
    rw [← Option.some_inj, ← Opcode.ofCode_code o', ← Opcode.ofCode_code o, ← hop, ← hop']
  exact (encode_of_decode hd).symm

/-- Settles O46: along the chain the first cause that applies is raised, and past its end none applies. -/
theorem faultPriority : Obligations.FaultPriority := by
  have hexample : MalformedWord 0x3001 := by decide
  refine ⟨fun w s herr => ?_, fun s herr _ => executeWord_of_applies (c := .reservedField) herr hexample⟩
  split_ifs with hillegal hmalformed hbyte hfinal
  · exact ⟨_, executeWord_of_applies (c := .illegalOpcode) herr hillegal, rfl, rfl⟩
  · exact ⟨_, executeWord_of_applies (c := .reservedField) herr hmalformed, rfl, rfl⟩
  · obtain ⟨hop, hidle⟩ := hbyte
    have hw : w = encode (.hbyte _) := eq_encode_of_legal (o := .hbyte) hillegal hmalformed hop
    exact ⟨_, executeWord_of_applies (c := .noInvocationByte) herr ⟨⟨_, hw⟩, hidle⟩, rfl, rfl⟩
  · obtain ⟨hop, hidle⟩ := hfinal
    have hw : w = encode .hfinal := eq_encode_of_legal (o := .hfinal) hillegal hmalformed hop
    exact ⟨_, executeWord_of_applies (c := .noInvocationFinal) herr ⟨hw, hidle⟩, rfl, rfl⟩
  · obtain ⟨t, ht⟩ := takeAction_completes (.write w) s
    refine ⟨t, ht, Bool.eq_false_iff.mpr fun hfault => ?_⟩
    obtain ⟨c, hc⟩ := exists_applies_of_fault herr ht hfault
    cases c with
    | illegalOpcode => exact hillegal hc
    | reservedField => exact hmalformed hc
    | noInvocationByte =>
      obtain ⟨⟨b, rfl⟩, hidle⟩ := hc
      exact hbyte ⟨encode_op (.hbyte b), hidle⟩
    | noInvocationFinal =>
      obtain ⟨rfl, hidle⟩ := hc
      exact hfinal ⟨encode_op .hfinal, hidle⟩

/-! Precise fault entry (R78, R81). -/

/-- Of STATUS the fault entry sets bit 3 and keeps the others (R23). -/
theorem statusByte_raiseFault (s : State) (c : FaultCause) (w : CmdWord) :
    statusByte (s.raiseFault c w) = statusByte s ||| 0x08 := by
  apply BitVec.eq_of_getLsbD_eq
  intro i hi
  rw [BitVec.getLsbD_or, statusByte_getLsbD, statusByte_getLsbD]
  match i, hi with
  | 3, _ => exact (Bool.or_true s.err).symm
  | 0, _ | 1, _ | 2, _ | 4, _ | 5, _ | 6, _ | 7, _ => exact (Bool.or_false _).symm

/-- Settles O47: the effect of a faulting word is the fault entry, of which the read space shows bit 3 of STATUS and the
record above it. -/
theorem faultEntryIsPrecise : Obligations.FaultEntryIsPrecise := by
  intro w s t herr h hfault
  obtain ⟨c, -, rfl⟩ := fault_cases herr h hfault
  exact ⟨⟨c, rfl⟩, fun a ha => rdPort_raiseFault ha s c w, statusByte_raiseFault s c w⟩

/-- Settles O50: the fault entry keeps ACTIVE, DONE and DIGEST, whose values the invariant gives, and then every word is
ignored. -/
theorem faultedTransactionGivesNoDigest : Obligations.FaultedTransactionGivesNoDigest := by
  intro w s t hinv herr hactive h hfault
  have hdone : s.done = false := hinv.openNotDone hactive
  obtain ⟨c, -, rfl⟩ := fault_cases herr h hfault
  exact ⟨hactive, hdone, hinv.blank hdone, executeAll_of_err hfault⟩

/-! The computation raises nothing (R88). -/

/-- Every sequence of words completes. -/
theorem executeAll_completes (ws : List CmdWord) (s : State) : ∃ t, executeAll ws s = .next t := by
  induction ws generalizing s with
  | nil => exact ⟨s, rfl⟩
  | cons w ws ih =>
    obtain ⟨u, hu⟩ := takeAction_completes (.write w) s
    obtain ⟨t, ht⟩ := ih u
    exact ⟨t, executeAll_cons_eq_next.mpr ⟨u, hu, ht⟩⟩

/-- A sequence that ends without a fault had none after any of its words, since no later word would have cleared it. -/
theorem executeAll_take_clear {ws : List CmdWord} {s t : State} (h : executeAll ws s = .next t) (hclear : t.err = false)
    (n : Nat) : ∃ u, executeAll (ws.take n) s = .next u ∧ u.err = false := by
  obtain ⟨u, hu⟩ := executeAll_completes (ws.take n) s
  refine ⟨u, hu, Bool.eq_false_iff.mpr fun hfault => ?_⟩
  have hrest : executeAll (ws.drop n) u = .next t := by
    rw [← executeAll_append hu, List.take_append_drop, h]
  obtain rfl : u = t := Host.Outcome.next.inj ((executeAll_of_err hfault (ws.drop n)).symm.trans hrest)
  exact Bool.eq_false_iff.mp hclear hfault

/-- Settles O51: in an open invocation HBYTE and HFINAL keep ERR, and a transaction ends without a fault, so none of its
commands raised one. -/
theorem computationNeverFaults : Obligations.ComputationNeverFaults := by
  refine ⟨fun b s herr hactive => ?_, fun m x s n herr => ?_⟩
  · exact ⟨foldByte b s, closeInvocation s, exec_hbyte_of_active herr hactive b, (foldByte_err b s).trans herr,
      exec_hfinal_of_active herr hactive, herr⟩
  · exact executeAll_take_clear (executeAll_hashWords herr m x) herr n

end Sys2Proof.Machine
end

section
/-! SUPPORT. TLOOK and RDACC between the HBYTEs of an invocation (R93), and which digest reads are stable (R95). -/

namespace Sys2Proof.Machine

/-! Folding bytes does not read RESULT, the only element that TLOOK and RDACC write. -/

theorem foldByte_setResult (b : Byte) (s : State) (v : Word) :
    foldByte b (s.setResult v) = (foldByte b s).setResult v :=
  List.foldl_hom (g₁ := stepLane b) (g₂ := stepLane b) (State.setResult · v) fun _ _ => rfl

theorem foldBytes_setResult (x : List Byte) (s : State) (v : Word) :
    foldBytes x (s.setResult v) = (foldBytes x s).setResult v :=
  List.foldl_hom (g₁ := fun t b => foldByte b t) (g₂ := fun t b => foldByte b t) (State.setResult · v)
    fun t b => foldByte_setResult b t v

/-- A later write of RESULT is the one that stands. -/
theorem State.setResult_setResult (s : State) (v w : Word) : (s.setResult v).setResult w = s.setResult w := rfl

/-- A command that an open invocation allows besides the two that bound it: HBYTE, TLOOK or RDACC (R93). -/
def InsideInvocation (i : Instr) : Prop := (∀ m, i ≠ .hstart m) ∧ i ≠ .hfinal

/-- Commands inside an open invocation fold the bytes that the HBYTEs among them give, and leave RESULT some value. -/
theorem executeAll_inside {is : List Instr} (his : ∀ i ∈ is, InsideInvocation i) {s : State} (herr : s.err = false)
    (hactive : s.active = true) :
    ∃ v, executeAll (is.map encode) s = .next ((foldBytes (inputBytes is) s).setResult v) := by
  induction is generalizing s with
  | nil => exact ⟨s.result, rfl⟩
  | cons i is ih =>
    obtain ⟨⟨hhstart, hhfinal⟩, hrest⟩ := List.forall_mem_cons.mp his
    -- TLOOK and RDACC alike: the commands after one of them start with another value in RESULT.
    have observation {w : Word} (hexec : exec i s = .next (s.setResult w)) :
        ∃ v, executeAll ((i :: is).map encode) s = .next ((foldBytes (inputBytes is) s).setResult v) := by
      obtain ⟨v, hv⟩ := ih hrest (s := s.setResult w) herr hactive
      rw [foldBytes_setResult, State.setResult_setResult] at hv
      exact ⟨v, executeAll_cons_eq_next.mpr ⟨_, by rw [executeWord_encode, hexec], hv⟩⟩
    cases i with
    | hstart m => exact absurd rfl (hhstart m)
    | hfinal => exact absurd rfl hhfinal
    | hbyte b =>
      obtain ⟨v, hv⟩ := ih hrest (s := foldByte b s) (by simpa using herr) (by simpa using hactive)
      exact ⟨v, executeAll_cons_eq_next.mpr ⟨_, by rw [executeWord_encode, exec_hbyte_of_active herr hactive], hv⟩⟩
    | tlook x => exact observation (exec_tlook_of_clear herr x)
    | rdacc l => exact observation (exec_rdacc_of_clear herr l)

/-- An invocation with TLOOKs and RDACCs among its HBYTEs leaves what the transaction on its bytes leaves, but for
RESULT. -/
theorem executeAll_observed_hash {is : List Instr} (his : ∀ i ∈ is, InsideInvocation i) {s : State}
    (herr : s.err = false) (m : Mode) :
    ∃ v, executeAll (encode (.hstart m) :: (is.map encode ++ [encode .hfinal])) s =
      .next ((hashState m (inputBytes is) s).setResult v) := by
  obtain ⟨v, hv⟩ := executeAll_inside his (s := action (.hstart m) s) herr rfl
  refine ⟨v, executeAll_cons_eq_next.mpr
    ⟨action (.hstart m) s, by rw [executeWord_encode, exec_hstart_of_clear herr], ?_⟩⟩
  rw [executeAll_append hv, foldBytes_eq, executeAll_cons_eq_next]
  refine ⟨(hashState m (inputBytes is) s).setResult v, ?_, rfl⟩
  rw [executeWord_encode, exec_hfinal_of_active (by exact herr) rfl]
  rfl

/-- The digest the host reads is no view of RESULT (R28). -/
theorem readDigest_setResult (m : Mode) (s : State) (v : Word) : readDigest m (s.setResult v) = readDigest m s := by
  rw [readDigest_eq_take, readDigest_eq_take, State.setResult_digest]

/-- Settles O41: both invocations leave the same state but for RESULT. -/
theorem observationKeepsDigest : Obligations.ObservationKeepsDigest := by
  intro m is s herr his
  obtain ⟨v, hv⟩ := executeAll_observed_hash his herr m
  exact ⟨_, _, hv, executeAll_hashWords herr m (inputBytes is), rfl, readDigest_setResult m _ v, rfl⟩

/-- Of the commands only HSTART and HFINAL write DIGEST (R21). -/
theorem digest_of_exec_inside {i : Instr} {s t : State} (hi : InsideInvocation i) (h : exec i s = .next t) :
    t.digest = s.digest := by
  obtain ⟨-, -, -, -, hwriter, -⟩ := onlyNamedWriters i s t h
  obtain ⟨hhstart, hhfinal⟩ := hi
  by_contra hne
  rcases hwriter hne with ⟨m, rfl⟩ | rfl
  · exact hhstart m rfl
  · exact hhfinal rfl

/-- Settles O53: the three commands keep DIGEST, which the read space shows below 0x20, and under a fault a word leaves
the state itself. -/
theorem digestReadsAreStable : Obligations.DigestReadsAreStable := by
  refine ⟨fun i s t hi h a ha => ?_, fun w s t herr h a => ?_⟩
  · have hinside : InsideInvocation i := by
      rcases hi with ⟨b, rfl⟩ | ⟨x, rfl⟩ | ⟨l, rfl⟩ <;> exact ⟨nofun, nofun⟩
    simp only [rdPort_of_lt _ ha, digest_of_exec_inside hinside h]
  · obtain rfl : s = t := Host.Outcome.next.inj ((executeWord_of_err herr w).symm.trans h)
    rfl

end Sys2Proof.Machine
end

section
/-! SUPPORT. Completion (R97), and the values that reset leaves (R89, R90). -/

namespace Sys2Proof.Machine

/-- Every command completes, from every state. -/
theorem exec_completes (i : Instr) (s : State) : ∃ t, exec i s = .next t := by
  rw [exec_eq_unlessErr]
  exact unlessErr_completes s (action i)

/-- Settles O54: whatever ERR holds, a command, a step and so a sequence of words answer a next state. -/
theorem everyStepCompletes : Obligations.EveryStepCompletes :=
  ⟨step_completes, exec_completes, executeAll_completes⟩

/-- After reset STATUS shows the variant, at bit 4, and nothing else (R23, R89). -/
theorem statusByte_applyReset (s : State) :
    statusByte s.applyReset = (variantBit s.variant).setWidth 8 <<< 4 := by
  simp only [statusByte, State.applyReset_variant, State.applyReset_err, State.applyReset_mode, State.applyReset_done,
    State.applyReset_active]
  cases s.variant <;> decide

/-- Settles O52: each element has its reset value by definition, after the reset input and in the machine's first
state. -/
theorem resetInput : Obligations.ResetInput := by
  refine ⟨fun s => ⟨s.applyReset, rfl, LaneFile.get_zero, rfl, rfl, rfl, rfl, rfl, rfl,
    fun k => Digest.zero_getElem k.isLt, rfl, fun hpaper => ?_, fun hrfc => ?_, rfl, rfl⟩,
    LaneFile.get_zero, rfl, rfl, rfl, rfl, rfl, rfl, fun k => Digest.zero_getElem k.isLt, rfl⟩
  · rw [statusByte_applyReset, hpaper]
    decide
  · rw [statusByte_applyReset, hrfc]
    decide

end Sys2Proof.Machine
end
